-- ==== Sys2Proof/Word.lean ====
section
/-! DEFINITION. The two word types of DCSC: a byte (00_scope.md R6) and the 32-bit word of the host window (30_encoding.md R90). -/

namespace Sys2Proof

/-- A byte is 8 bits, bit 0 the least significant (R6). -/
abbrev Byte := BitVec 8

/-- A command word, and every register of the host window, is 32 bits (R22, R23, R26, R90). -/
abbrev Word := BitVec 32

end Sys2Proof
end

