-- ==== Sys2Proof/Config.lean ====
section
/-! DEFINITION. The parameters of DCSC (00_scope.md R4) as data that a model takes as an argument, their legal
ranges, and the constants that no model varies (R5). -/

namespace Sys2Proof

/-- The OPEN parameters of R4. They are configuration: no step and no reset changes them (R272). -/
structure Config where
  /-- `N`, the chain length: devices are indexed 0..N-1, position 0 nearest the controller. -/
  n : Nat
  /-- `EVENT_CYCLES` (`C`), controller clock cycles per pin-write event. -/
  eventCycles : Nat
  /-- `BASE`, the byte address of the register window on the host bus. -/
  base : Nat
  regDecode : Byte
  regIntensity : Byte
  regScanLimit : Byte
  regShutdown : Byte
  regTest : Byte
deriving DecidableEq, Repr

namespace Config

/-- The five named device register addresses, in the order of R4's table. -/
def namedRegs (c : Config) : List Byte :=
  [c.regDecode, c.regIntensity, c.regScanLimit, c.regShutdown, c.regTest]

/-- The ranges of R4: `1 <= N <= 255`, `C >= 1`, `BASE` 16-byte aligned, and the five `REG_*` values different from one
another, from 0x00 and from 0x01..0x08. -/
abbrev Valid (c : Config) : Prop :=
  1 ≤ c.n ∧ c.n ≤ 255 ∧ 1 ≤ c.eventCycles ∧ c.base % 16 = 0 ∧ c.namedRegs.Nodup ∧ ∀ a ∈ c.namedRegs, 8 < a.toNat

/-- The instance that `State.reset` carries. DESIGN CHOICE (log 1): N, C and BASE are OPEN in R4, and N = 4 is the
source's own example; the five `REG_*` are R4's defaults. Unsafe for a statement that rests on these numbers: statements
quantify over every `Config` instead. -/
def standard : Config where
  n := 4
  eventCycles := 1
  base := 0
  regDecode := 0x09
  regIntensity := 0x0A
  regScanLimit := 0x0B
  regShutdown := 0x0C
  regTest := 0x0F

end Config

/-- `NOP_ADDR` (R5): the register address of the no-op pair. -/
def nopAddr : Byte := 0x00

/-- `NOP_DATA` (R5): the data byte of the no-op pair. -/
def nopData : Byte := 0x00

/-- `ROWS` (R4): row registers per device, fixed. -/
def rowCount : Nat := 8

/-- The intensity mask, and the maximum brightness (R5). -/
def intensityMask : Byte := 0x0F

end Sys2Proof
end

