-- ==== Sys2Proof/Machine/State.lean ====
section
/-! DEFINITION. The state of the machine as plain data: DCSC itself (10_state.md R20), the device chain its lines drive
(44_device_chain.md R212), the trace (R30), and the inputs the outside world still has to give (INVENTORY.md, State). -/

namespace Sys2Proof.Machine

/-! ### Lines and events (R7, R27, R127) -/

/-- What an event writes: one of the three output lines, or the output enable (R7). -/
inductive Line where
  | data
  | clk
  | load
  | oe
deriving DecidableEq, Repr

/-- One pin-write event `(line, level)` (R7). A level is a bit: `false` is 0 (low), `true` is 1 (high). -/
structure Event where
  line : Line
  level : Bool
deriving DecidableEq, Repr

/-- `OUT`: the four 1-bit output registers (R20, R27). -/
structure Out where
  data : Bool
  clk : Bool
  load : Bool
  oe : Bool
deriving DecidableEq, Repr

/-! ### Status flags (R23, R24) -/

/-- The names of the five sticky flags, with their STATUS bits (R240). -/
inductive Flag where
  /-- Bit 2: CMD written while BUSY = 1. -/
  | ovr
  /-- Bit 3: CMD written with an illegal word. -/
  | ill
  /-- Bit 4: a legal command other than INIT while OE = 0. -/
  | ncfg
  /-- Bit 5: a DROWD row above 7. -/
  | drop
  /-- Bit 6: a targeted command with a device index of N or more. -/
  | clamp
deriving DecidableEq, Repr

/-- `F`: the five sticky flags (R20). -/
structure Flags where
  ovr : Bool
  ill : Bool
  ncfg : Bool
  drop : Bool
  clamp : Bool
deriving DecidableEq, Repr

/-- All five flags 0 (R31). -/
def Flags.zero : Flags := ⟨false, false, false, false, false⟩

/-! ### Pairs, frames and the trace -/

/-- A pair (register address, data) (R121). -/
structure Pair where
  addr : Byte
  data : Byte
deriving DecidableEq, Repr

/-- A frame: its pairs in emission order, element 0 shifted out first (R124). -/
abbrev Frame := List Pair

/-- One entry of `TRACE` (R30). -/
inductive TraceEntry where
  /-- `(line, level, n)`: the event was performed in cycle n. -/
  | emit (event : Event) (cycle : Nat)
  /-- `(RESET, n)`. -/
  | reset (cycle : Nat)
deriving DecidableEq, Repr

/-! ### The device chain (R212) -/

/-- One bit of a device's shift register: 0, 1 or ⊥, with `none` the spec's own ⊥ (R212; log 8). -/
abbrev TriBit := Option Bool

/-- One device register: an 8-bit value or ⊥ (R212; log 8). -/
abbrev DevByte := Option Byte

/-- `REG_k`: the 13 registers of one device (R212). -/
structure DevRegs where
  rows : Vector DevByte 8
  decode : DevByte
  intensity : DevByte
  scanLimit : DevByte
  shutdown : DevByte
  test : DevByte
deriving DecidableEq, Repr

/-- One device of the chain (R212). -/
structure Device where
  /-- `SR_k`, bit 15 first: the head is the bit about to leave (R211), the last element is bit 0. -/
  sr : List TriBit
  regs : DevRegs
deriving DecidableEq, Repr

/-- The chain agent (R210, R212): devices 0..N-1, element k of the list device k, and `EC`. -/
structure Chain where
  devices : List Device
  /-- CLK rising edges since LOAD last fell, or ⊥. -/
  ec : Option Nat
deriving DecidableEq, Repr

/-- Every register ⊥. -/
def DevRegs.unknown : DevRegs := ⟨Vector.replicate 8 none, none, none, none, none, none⟩

/-- Every shift register bit and every register ⊥. -/
def Device.unknown : Device := ⟨List.replicate 16 none, DevRegs.unknown⟩

/-- The all-⊥ chain of n devices (R218, R219). -/
def Chain.unknown (n : Nat) : Chain := ⟨List.replicate n Device.unknown, none⟩

/-! ### The outside world -/

/-- One host bus access (R7, R62). A write carries its bytes, the one for the lowest address first (R64), so its width n is
their number. -/
inductive Access where
  | read (addr n : Nat)
  | write (addr : Nat) (bytes : List Byte)
deriving DecidableEq, Repr

/-- What the host does with one of its cycles: the operations of R102, any other access, or nothing. -/
inductive HostOp where
  /-- `cmd X`, given the word of X. -/
  | cmd (word : Word)
  /-- `wait`: read STATUS until BUSY = 0, one read a cycle. -/
  | wait
  /-- `rd STATUS`. -/
  | rdStatus
  /-- `rd PINS`. -/
  | rdPins
  /-- `w1c m`. -/
  | w1c (mask : Word)
  /-- Any other bus access (R62). -/
  | bus (access : Access)
  /-- No access to the window in this cycle. -/
  | idle
deriving DecidableEq, Repr

/-- A value returned to the host, with the cycle and the address of the read (R63). -/
structure ReadEntry where
  cycle : Nat
  addr : Nat
  value : Word
deriving DecidableEq, Repr

/-! ### State -/

/-- `S(n)`, the whole state at the start of cycle n (R8). -/
structure State where
  /-- The parameters (R4): constant (R272; log 1). -/
  cfg : Config
  /-- `OUT` (R27). -/
  out : Out
  /-- `Q`, the events the current command still has to perform (R28). -/
  q : List Event
  /-- `T`, clock cycles spent in the current event slot (R28). -/
  t : Nat
  /-- `F` (R24). -/
  flags : Flags
  /-- `TRACE`, oldest entry first (R30). -/
  trace : List TraceEntry
  /-- The devices (R212). -/
  chain : Chain
  /-- The number n of this cycle (R8). The model's own field (log 6). -/
  cycle : Nat
  /-- The host's operations still to come, one a cycle; empty means no access. The model's own field (log 2). -/
  host : List HostOp
  /-- Samples of `rst` still to come, one a cycle; empty means deasserted (R270). The model's own field (log 2). -/
  rst : List Bool
  /-- What the host's reads returned, oldest first. The model's own field (log 7). -/
  reads : List ReadEntry
deriving DecidableEq, Repr

/-- Why the machine stops with a fault. -/
inductive Fault where
  /-- `BusError(addr, n)` (R62, R244): raised by a window access that is not an aligned 32-bit access. The spec calls it a
  fault whose faulted state is final (R241). Safe: the model stops and changes no state. -/
  | busError (addr n : Nat)
deriving DecidableEq, Repr

/-- Why the machine refuses to go on. -/
inductive Refusal where
  /-- Raised by an arm of `exec` that has no meaning yet; no arm is left that raises it. Safe. -/
  | notModelled (mnemonic : String)
  /-- Raised by a host access that touches no byte of the window: it is no access to DCSC, and the spec describes no other
  device of the bus (log 9); one of width 0 only at an address outside BASE+1..BASE+15 (log 20). Safe: the model stops. -/
  | outsideWindow (addr n : Nat)
deriving DecidableEq, Repr

/-! ### Reset -/

/-- The output registers at reset (R31). -/
def Out.atReset : Out := ⟨false, false, true, false⟩

/-- The machine right after power-on reset with the parameters `cfg` (R31, R218), at the start of cycle 0 with no host
operation and no reset sample to come (log 2, log 6). -/
def State.resetWith (cfg : Config) : State where
  cfg := cfg
  out := Out.atReset
  q := []
  t := 0
  flags := Flags.zero
  trace := []
  chain := Chain.unknown cfg.n
  cycle := 0
  host := []
  rst := []
  reads := []

/-- The machine right after reset (R31), with the parameters of log 1. -/
def State.reset : State := State.resetWith Config.standard

end Sys2Proof.Machine
end

