-- ==== Sys2Proof/Machine/Chain.lean ====
section
/-! DEFINITION. The daisy-chained devices as the environment DCSC's lines drive: the line levels they see, the shift, the
commit, the register write, undriven lines, and what the spec says the register values mean (44_device_chain.md). -/

namespace Sys2Proof.Machine

/-! ### The lines (R27) -/

/-- The level a line carries: its register's level while OE = 1, and undriven (`Z`, here `none`) while OE = 0 (R27). The
output enable itself is no line; it reads as its own level. -/
def Out.line (o : Out) : Line → Option Bool
  | .data => if o.oe then some o.data else none
  | .clk => if o.oe then some o.clk else none
  | .load => if o.oe then some o.load else none
  | .oe => some o.oe

/-- One event performed on the output registers (R7, R127). -/
def Out.perform (o : Out) (e : Event) : Out :=
  match e.line with
  | .data => { o with data := e.level }
  | .clk => { o with clk := e.level }
  | .load => { o with load := e.level }
  | .oe => { o with oe := e.level }

/-- The line goes from 0 to 1, driven before and after. -/
def rises (before after : Out) (l : Line) : Bool := before.line l == some false && after.line l == some true

/-- The line goes from 1 to 0, driven before and after. -/
def falls (before after : Out) (l : Line) : Bool := before.line l == some true && after.line l == some false

/-! ### Register write (R213, R214, R217) -/

/-- `Write(k, a, d)` on one register file (R214). Address 0x00 is the no-op whatever the data byte; an address outside R213's
map makes every register ⊥ (R217). -/
def DevRegs.write (cfg : Config) (a d : Byte) (r : DevRegs) : DevRegs :=
  if a = nopAddr then r
  else if h : 1 ≤ a.toNat ∧ a.toNat ≤ 8 then { r with rows := r.rows.set (a.toNat - 1) (some d) }
  else if a = cfg.regDecode then { r with decode := some d }
  else if a = cfg.regIntensity then { r with intensity := some d }
  else if a = cfg.regScanLimit then { r with scanLimit := some d }
  else if a = cfg.regShutdown then { r with shutdown := some d }
  else if a = cfg.regTest then { r with test := some d }
  else DevRegs.unknown

/-! ### Shift (R211, R215) -/

/-- `DOUT_k = SR_k[15]` (R211). -/
def Device.dout (d : Device) : TriBit := d.sr.headD none

/-- One shift register shifted by one, its input bit entering at bit 0 (R215). -/
def Device.shiftIn (d : Device) (din : TriBit) : Device := { d with sr := d.sr.tail ++ [din] }

/-- All devices shift at once (R215): `din` enters the first of the list, and each further device takes the bit its neighbour
held in SR[15] before the edge (R211). -/
def shiftDevices (din : TriBit) : List Device → List Device
  | [] => []
  | d :: rest => d.shiftIn din :: shiftDevices d.dout rest

/-! ### Commit (R216) -/

/-- The bits of a shift register when all of them are known. -/
def knownBits : List TriBit → Option (List Bool)
  | [] => some []
  | none :: _ => none
  | some b :: rest => (knownBits rest).map (b :: ·)

/-- The byte whose bits are these, most significant first. -/
def byteOfBits (bits : List Bool) : Byte := bits.foldl (fun acc b => acc <<< 1 ||| (BitVec.ofBool b).zeroExtend 8) 0

/-- The pair a shift register holds: SR[15:8] and SR[7:0] (R216), when no bit is ⊥. -/
def srPair (sr : List TriBit) : Option Pair :=
  match knownBits sr with
  | some bits => some ⟨byteOfBits (bits.take 8), byteOfBits (bits.drop 8)⟩
  | none => none

/-- One device's part of a well-formed commit (R216). -/
def Device.commit (cfg : Config) (d : Device) : Device :=
  match srPair d.sr with
  | some p => { d with regs := d.regs.write cfg p.addr p.data }
  | none => { d with regs := DevRegs.unknown }

/-- One device's part of a protocol violation (R216): every register ⊥. -/
def Device.violate (d : Device) : Device := { d with regs := DevRegs.unknown }

/-! ### Line transitions (R210, R215, R216, R219) -/

/-- CLK rising (R215): all devices shift, and EC counts the edge while LOAD is low. -/
def Chain.clkRise (after : Out) (c : Chain) : Chain where
  devices := shiftDevices (after.line .data) c.devices
  ec := if after.line .load = some false then c.ec.map (· + 1) else c.ec

/-- LOAD falling (R216). -/
def Chain.loadFall (c : Chain) : Chain := { c with ec := some 0 }

/-- LOAD rising (R216): a commit after exactly 16 N edges, a protocol violation after any other count, ⊥ included. -/
def Chain.loadRise (cfg : Config) (c : Chain) : Chain :=
  if c.ec = some (16 * cfg.n) then { c with devices := c.devices.map (Device.commit cfg) }
  else { c with devices := c.devices.map Device.violate }

/-- What the chain does between two cycles whose output registers are `before` and `after` (R210). While the lines are
undriven on either side everything is ⊥ (R219; log 5); otherwise an event that changes no level does nothing. A cycle changes
at most one line (R128; log 16). -/
def Chain.observe (cfg : Config) (before after : Out) (c : Chain) : Chain :=
  if before.oe && after.oe then
    if rises before after .clk then c.clkRise after
    else if falls before after .load then c.loadFall
    else if rises before after .load then c.loadRise cfg
    else c
  else Chain.unknown cfg.n

/-- One event on the output registers and on the chain they drive (R128, R210). -/
def performOn (cfg : Config) (oc : Out × Chain) (e : Event) : Out × Chain :=
  (oc.1.perform e, oc.2.observe cfg oc.1 (oc.1.perform e))

/-- A list of events, performed in order (R68). -/
def performAll (cfg : Config) (es : List Event) (oc : Out × Chain) : Out × Chain := es.foldl (performOn cfg) oc

/-! ### What the register values mean (R220) -/

/-- The two modes of the shutdown register (R220): 0 is low-power standby, 1 is normal operation. -/
def DevRegs.normalOperation (r : DevRegs) : Option Bool :=
  match r.shutdown with
  | some v => if v = 0 then some false else if v = 1 then some true else none
  | none => none

/-- `SCANLIMIT = 7` enables all 8 rows (R220); the spec gives no other value a meaning. -/
def DevRegs.scansAllRows (r : DevRegs) : Option Bool := if r.scanLimit = some 7 then some true else none

/-- `DECODE = 0` is raw segment mode (R220); the spec gives no other value a meaning. -/
def DevRegs.rawSegments (r : DevRegs) : Option Bool := if r.decode = some 0 then some true else none

/-- `TEST = 0` disables test mode (R220); the spec gives no other value a meaning. -/
def DevRegs.testDisabled (r : DevRegs) : Option Bool := if r.test = some 0 then some true else none

/-- `INTENSITY = 0x0F` is the maximum of the 4-bit range (R220). -/
def DevRegs.atMaxIntensity (r : DevRegs) : Option Bool := if r.intensity = some intensityMask then some true else none

end Sys2Proof.Machine
end

