-- ==== Sys2Proof/Machine/Flags.lean ====
section
/-! DEFINITION. STATUS: setting a sticky flag, reading the register, and its write-one-to-clear write (10_state.md R23 to R25). -/

namespace Sys2Proof.Machine

/-- `flag(F)` (R7, R24): the bit becomes 1; a bit already 1 stays 1. -/
def Flags.set (f : Flags) : Flag → Flags
  | .ovr => { f with ovr := true }
  | .ill => { f with ill := true }
  | .ncfg => { f with ncfg := true }
  | .drop => { f with drop := true }
  | .clamp => { f with clamp := true }

/-- The flag's value. -/
def Flags.get (f : Flags) : Flag → Bool
  | .ovr => f.ovr
  | .ill => f.ill
  | .ncfg => f.ncfg
  | .drop => f.drop
  | .clamp => f.clamp

/-- Several flags set at once (an acceptance sets at most one, R245). -/
def Flags.setAll (f : Flags) (raised : List Flag) : Flags := raised.foldl Flags.set f

/-- The flag's bit of STATUS, which is also its cause code (R23, R240). -/
def Flag.statusBit : Flag → Nat
  | .ovr => 2
  | .ill => 3
  | .ncfg => 4
  | .drop => 5
  | .clamp => 6

/-- A STATUS write of `v` (R23): each flag whose bit is 1 in `v` becomes 0; the others keep their value. The other bits of
`v` are ignored. -/
def Flags.writeOneToClear (f : Flags) (v : Word) : Flags where
  ovr := f.ovr && !v.getLsbD Flag.ovr.statusBit
  ill := f.ill && !v.getLsbD Flag.ill.statusBit
  ncfg := f.ncfg && !v.getLsbD Flag.ncfg.statusBit
  drop := f.drop && !v.getLsbD Flag.drop.statusBit
  clamp := f.clamp && !v.getLsbD Flag.clamp.statusBit

/-- `BUSY = (len(Q) > 0)` (R23, R28): not stored. -/
def State.busy (s : State) : Bool := !s.q.isEmpty

/-- `CFG`, a copy of OE (R23, R27): not stored. -/
def State.configured (s : State) : Bool := s.out.oe

/-- One bit as a bit vector. -/
def bit (b : Bool) : BitVec 1 := BitVec.ofBool b

/-- STATUS as read (R23): reserved zeros 31:24, NDEV 23:16 (R25), reserved zeros 15:7, CLAMP 6, DROP 5, NCFG 4, ILL 3, OVR 2,
CFG 1, BUSY 0. -/
def State.statusWord (s : State) : Word :=
  (0 : BitVec 8) ++ (BitVec.ofNat 8 s.cfg.n ++ ((0 : BitVec 9) ++ (bit s.flags.clamp ++ (bit s.flags.drop ++
    (bit s.flags.ncfg ++ (bit s.flags.ill ++ (bit s.flags.ovr ++ (bit s.configured ++ bit s.busy))))))))

/-- PINS as read (R26): OE bit 3, LOAD_q bit 2, CLK_q bit 1, DATA_q bit 0, zeros above. -/
def State.pinsWord (s : State) : Word :=
  (0 : BitVec 28) ++ (bit s.out.oe ++ (bit s.out.load ++ (bit s.out.clk ++ bit s.out.data)))

end Sys2Proof.Machine
end

