-- ==== Sys2Proof/Syntax.lean ====
section
/-! DEFINITION. The commands of DCSC: one constructor of `Instr` per row of spec/opcode_table.json (30_encoding.md R92), and
the tagged broadcast-or-device target of R96. -/

namespace Sys2Proof

/-- `target` of R96: the source's "distinct tagged variant (not a magic index)". -/
inductive Target where
  /-- Every device of the chain (BC = 1). -/
  | all
  /-- The device with this index (BC = 0, the whole DEV field, R91). -/
  | dev (index : Nat)
deriving DecidableEq, Repr

/-- A command. A row number and a device index are unsigned numbers that the machine compares (R91, R151, R156), so they
are `Nat`; WellFormed.lean says they fit their 8-bit fields. Brightness, patterns, register addresses and data are bytes. -/
inductive Instr where
  /-- INIT (R180). -/
  | init
  /-- SETB (R185). -/
  | setb (level : Byte)
  /-- CLEAR (R188). -/
  | clear
  /-- DROWD, BC = 0 (R156). -/
  | drowd (row : Nat) (pattern : Byte) (dev : Nat)
  /-- DROWD.ALL, BC = 1 (R156); the pseudo-instruction DROW (R101). -/
  | drowdAll (row : Nat) (pattern : Byte)
  /-- WREG, BC = 0 (R160). -/
  | wreg (addr data : Byte) (dev : Nat)
  /-- WREG.ALL, BC = 1 (R160); NOPF is `wregAll 0 0` (R101). -/
  | wregAll (addr data : Byte)
deriving DecidableEq, Repr

end Sys2Proof
end

