-- ==== Sys2Proof/Machine/Operands.lean ====
section
/-! DEFINITION. The operand forms of the commands: the brightness mask, the row check, the clamp of a device index, the
daisy-chain address decoder and the no-op injector (41_addressing.md R150 to R154, R156; 42_driver_ops.md R185). -/

namespace Sys2Proof.Machine

/-- `level & 0x0F` (R185): masked, not saturated. -/
def maskLevel (level : Byte) : Byte := level &&& intensityMask

/-- A row is in range when it is 0..7 (R156). -/
def rowInRange (row : Nat) : Bool := decide (row < rowCount)

/-- The device address of a row register, `row + 1` (R5, R156). -/
def rowAddr (row : Nat) : Byte := BitVec.ofNat 8 (row + 1)

/-- `SlotOf(k) = N - 1 - k` (R150): the slot whose pair ends in device k. -/
def slotOf (n k : Nat) : Nat := n - 1 - k

/-- `DevOf(j) = N - 1 - j` (R150): the device that slot j ends in. -/
def devOf (n j : Nat) : Nat := n - 1 - j

/-- `Resolve` (R151): an index of N or more is clamped to N - 1. -/
def resolve (n : Nat) : Target → Target
  | .all => .all
  | .dev d => if d ≤ n - 1 then .dev d else .dev (n - 1)

/-- The flags `Resolve` sets (R151): CLAMP for an index of N or more. -/
def resolveFlags (n : Nat) : Target → List Flag
  | .all => []
  | .dev d => if d ≤ n - 1 then [] else [.clamp]

/-- The no-op pair (R5, R153). -/
def nopPair : Pair := ⟨nopAddr, nopData⟩

/-- `BroadcastFrame(a, d)` (R152): N identical pairs. -/
def broadcastFrame (n : Nat) (a d : Byte) : Frame := List.replicate n ⟨a, d⟩

/-- `TargetFrame(a, d, k)` (R153): the real pair in slot N-1-k, the no-op pair in every other slot. -/
def targetFrame (n : Nat) (a d : Byte) (k : Nat) : Frame :=
  (List.range n).map fun j => if j = slotOf n k then ⟨a, d⟩ else nopPair

/-- `FrameFor(a, d, target)` (R154), the target already resolved. -/
def frameFor (n : Nat) (a d : Byte) : Target → Frame
  | .all => broadcastFrame n a d
  | .dev k => targetFrame n a d k

end Sys2Proof.Machine
end

