-- ==== Sys2Proof/Machine/Transport.lean ====
section
/-! DEFINITION. Transport: how a byte, a pair and a frame become pin-write events (40_transport.md R120 to R125). -/

namespace Sys2Proof.Machine

/-- `ByteBits(v)` (R120): most significant bit first. -/
def byteBits (v : Byte) : List Bool :=
  [v.getLsbD 7, v.getLsbD 6, v.getLsbD 5, v.getLsbD 4, v.getLsbD 3, v.getLsbD 2, v.getLsbD 1, v.getLsbD 0]

/-- `PairBits((a, d))` (R121): the address byte, then the data byte. -/
def pairBits (p : Pair) : List Bool := byteBits p.addr ++ byteBits p.data

/-- `BitEvents(x)` (R122): CLK low, DATA to the bit, CLK high. -/
def bitEvents (x : Bool) : List Event := [⟨.clk, false⟩, ⟨.data, x⟩, ⟨.clk, true⟩]

/-- `ByteEvents(v)` (R123). -/
def byteEvents (v : Byte) : List Event := (byteBits v).flatMap bitEvents

/-- `FrameBits(frame)` (R124): the pairs in emission order. -/
def frameBits (f : Frame) : List Bool := f.flatMap pairBits

/-- `FrameEvents(frame)` (R124): LOAD falling, the bits, LOAD rising. -/
def frameEvents (f : Frame) : List Event :=
  ⟨.load, false⟩ :: ((frameBits f).flatMap bitEvents ++ [⟨.load, true⟩])

/-- Frames in sequence, with no event between them (R125). -/
def framesEvents (fs : List Frame) : List Event := fs.flatMap frameEvents

/-- INIT's four setup events (R181). -/
def setupEvents : List Event := [⟨.oe, true⟩, ⟨.load, true⟩, ⟨.clk, false⟩, ⟨.data, false⟩]

end Sys2Proof.Machine
end

