-- ==== Sys2Proof/Machine/Ops.lean ====
section
/-! DEFINITION. The operations the commands share: the events of a command, raising flags, and command acceptance
(30_encoding.md R97). DCSC has no trap entry and no trap return (60_exceptions.md R246): where a CPU would take an exception,
DCSC sets one sticky flag and drops the word (`State.discardWith`), and the "return" is the host's write of STATUS
(`Flags.writeOneToClear`). -/

namespace Sys2Proof.Machine

/-- What an accepted command asks of the machine: the flags `EventsOf` sets, whether INIT's setup events come first, and the
command's frame program (R29's `FP`). -/
structure Work where
  flags : List Flag
  setup : Bool
  frames : List Frame
deriving DecidableEq, Repr

/-- `EventsOf(cmd)` (R125): the setup events if the command has them, then its frames in order. -/
def Work.events (w : Work) : List Event := (if w.setup then setupEvents else []) ++ framesEvents w.frames

/-- One frame to every device, no flag. -/
def Work.broadcast (n : Nat) (a d : Byte) : Work := ⟨[], false, [broadcastFrame n a d]⟩

/-- One frame to a target, resolved by the clamp (R151, R154). -/
def Work.toTarget (n : Nat) (a d : Byte) (target : Target) : Work :=
  ⟨resolveFlags n target, false, [frameFor n a d (resolve n target)]⟩

/-- A command performed as zero events that sets DROP (R156). -/
def Work.dropped : Work := ⟨[.drop], false, []⟩

/-- `flag(X)` for each of these (R24). -/
def State.raise (s : State) (fs : List Flag) : State := { s with flags := s.flags.setAll fs }

/-- `flag(X); discard` (R97): the word is dropped, the flag is set, and nothing else changes. -/
def State.discardWith (s : State) (f : Flag) : State := s.raise [f]

/-- The end of `Accept` (R97): the flags of `EventsOf`, and `Q <- E; T <- 0` unless there is nothing to do. -/
def State.beginWork (s : State) (w : Work) : State :=
  if w.events.isEmpty then s.raise w.flags
  else { s.raise w.flags with q := w.events, t := 0 }

/-- `Accept` for a legal word (R97): busy, then not configured (unless the command is INIT), then the command's events. -/
def State.acceptWork (s : State) (isInit : Bool) (w : Work) : State :=
  if s.busy then s.discardWith .ovr
  else if !isInit && !s.configured then s.discardWith .ncfg
  else s.beginWork w

/-- `Accept` for an illegal word (R97): busy is checked first, then the word is discarded with ILL. -/
def State.acceptIllegal (s : State) : State :=
  if s.busy then s.discardWith .ovr else s.discardWith .ill

end Sys2Proof.Machine
end

