-- ==== Sys2Proof/Machine/Sequencer.lean ====
section
/-! DEFINITION. What passes in one clock cycle beside the host access: the sequencer step, the chain, the cycle number, and a
cycle with reset asserted (40_transport.md R128; 44_device_chain.md R210; 70_reset_and_hazards.md R270). -/

namespace Sys2Proof.Machine

/-- The sequencer step (R128), for a cycle whose start state has a non-empty queue. With an empty queue `T` holds (R28). -/
def State.sequence (s : State) : State :=
  match s.q with
  | [] => s
  | e :: rest =>
    if s.t = s.cfg.eventCycles - 1 then
      { s with out := s.out.perform e, q := rest, t := 0, trace := s.trace ++ [.emit e s.cycle] }
    else { s with t := s.t + 1 }

/-- The trace entries of the events of a command accepted in cycle `t`: event k is performed in cycle t + (k+1) C (R128). -/
def emitted (t eventCycles : Nat) (es : List Event) : List TraceEntry :=
  es.mapIdx fun k e => .emit e (t + (k + 1) * eventCycles)

/-- The rest of cycle n: `s` is S(n), and `acc` is `s` with the host access's writes. The sequencer steps only if S(n) was
busy (R63, R128); an access of a busy cycle writes neither `Q`, `T` nor `OUT`, so the step reads S(n)'s (R245). The chain
then sees the output registers of S(n) and S(n+1) (R210). -/
def State.passCycle (s acc : State) : State :=
  let seq := if s.busy then acc.sequence else acc
  { seq with chain := s.chain.observe s.cfg s.out seq.out, cycle := s.cycle + 1 }

/-- A cycle with `rst` asserted (R270): the reset values of R31 whatever S(n) was, `(RESET, n)` in the trace, no event. The
lines stop being driven, so the chain becomes ⊥ (R271, R219). Configuration is unchanged (R272). -/
def State.resetCycle (s : State) : State :=
  { s with
    out := Out.atReset
    q := []
    t := 0
    flags := Flags.zero
    trace := s.trace ++ [.reset s.cycle]
    chain := s.chain.observe s.cfg s.out Out.atReset
    cycle := s.cycle + 1 }

end Sys2Proof.Machine
end

