-- ==== Sys2Proof/WellFormed.lean ====
section
/-! DEFINITION. Which `Instr` terms are commands: every operand fits its 8-bit field (30_encoding.md R90, R91, R100). -/

namespace Sys2Proof

/-- A number fits the 8-bit field it is encoded in (R91: fields are unsigned, 0..255; R100: a value that does not fit is an
error, never cut down). -/
def fitsField (v : Nat) : Bool := decide (v < 256)

/-- The operands that are numbers fit A and DEV. Rows 8..255 and devices N..255 are well-formed: they reach the row check
and the clamp (R91). -/
def Instr.wellFormed : Instr → Bool
  | .init => true
  | .setb _ => true
  | .clear => true
  | .drowd row _ dev => fitsField row && fitsField dev
  | .drowdAll row _ => fitsField row
  | .wreg _ _ dev => fitsField dev
  | .wregAll _ _ => true

end Sys2Proof
end

