-- ==== Sys2Proof/Decode.lean ====
section
/-! DEFINITION. The command word: its fields, which words are legal, the decoder (total, rejecting by name), the byte lanes of
the host bus, the encoder, and the opcode table's own rows (30_encoding.md R90 to R96; 20_memory.md R64). -/

namespace Sys2Proof

/-! ### Fields (R90) -/

/-- OP, bits 31:28. -/
def fieldOp (w : Word) : BitVec 4 := w.extractLsb' 28 4

/-- BC, bit 27: broadcast select. -/
def fieldBc (w : Word) : BitVec 1 := w.extractLsb' 27 1

/-- RSV, bits 26:24: reserved, must be 0. -/
def fieldRsv (w : Word) : BitVec 3 := w.extractLsb' 24 3

/-- DEV, bits 23:16: target device index. -/
def fieldDev (w : Word) : Byte := w.extractLsb' 16 8

/-- A, bits 15:8: row number or device register address. -/
def fieldA (w : Word) : Byte := w.extractLsb' 8 8

/-- D, bits 7:0: pattern, data or brightness level. -/
def fieldD (w : Word) : Byte := w.extractLsb' 0 8

/-- The word with these fields (R90). -/
def packWord (op : BitVec 4) (bc : BitVec 1) (rsv : BitVec 3) (dev a d : Byte) : Word :=
  op ++ (bc ++ (rsv ++ (dev ++ (a ++ d))))

/-! ### Legality and decoding -/

/-- `Legal(w)` (R93): RSV is zero, and every field the opcode does not use is zero. -/
def legal (w : Word) : Bool :=
  fieldRsv w == 0 &&
    (if fieldOp w = 0x1 then w.extractLsb' 0 28 == 0
     else if fieldOp w = 0x2 then w.extractLsb' 8 20 == 0
     else if fieldOp w = 0x3 then w.extractLsb' 0 28 == 0
     else if fieldOp w = 0x4 then fieldBc w == 0 || fieldDev w == 0
     else if fieldOp w = 0x5 then fieldBc w == 0 || fieldDev w == 0
     else false)

/-- Why the decoder refuses. -/
inductive DecodeError where
  /-- `Illegal(w)` (R94): the named refusal of a word that is not legal. The machine answers it by R97 (OVR or ILL). -/
  | illegal (w : Word)
  /-- The bytes given are not one 32-bit command word (R90, R95: every command is exactly 32 bits). -/
  | wrongLength (bytes : Nat)
deriving DecidableEq, Repr

/-- `Decode(w)` (R96) of a legal word; an illegal word gives `Illegal(w)` (R94, R95). -/
def decode (w : Word) : Except DecodeError Instr :=
  if legal w then
    if fieldOp w = 0x1 then .ok .init
    else if fieldOp w = 0x2 then .ok (.setb (fieldD w))
    else if fieldOp w = 0x3 then .ok .clear
    else if fieldOp w = 0x4 then
      if fieldBc w = 1 then .ok (.drowdAll (fieldA w).toNat (fieldD w))
      else .ok (.drowd (fieldA w).toNat (fieldD w) (fieldDev w).toNat)
    else if fieldBc w = 1 then .ok (.wregAll (fieldA w) (fieldD w))
    else .ok (.wreg (fieldA w) (fieldD w) (fieldDev w).toNat)
  else .error (.illegal w)

/-! ### Byte lanes (R64) -/

/-- A word on a byte-addressed bus: register bit 0 sits in the byte at the lowest address (R64), so that byte comes first. -/
def wordLanes (w : Word) : List Byte :=
  [w.extractLsb' 0 8, w.extractLsb' 8 8, w.extractLsb' 16 8, w.extractLsb' 24 8]

/-- The word that four bytes make, the byte at the lowest address first (R64). Any other number of bytes is no word. -/
def wordOfLanes : List Byte → Option Word
  | [b0, b1, b2, b3] => some (b3 ++ (b2 ++ (b1 ++ b0)))
  | _ => none

/-- The decoder on bytes as the bus carries them, total on any list of bytes. -/
def decodeBytes (bytes : List Byte) : Except DecodeError Instr :=
  match wordOfLanes bytes with
  | some w => decode w
  | none => .error (.wrongLength bytes.length)

/-! ### Encoding -/

/-- The word of a command (R100's table, which is R90's format with R92's opcodes). -/
def encode : Instr → Word
  | .init => packWord 0x1 0 0 0 0 0
  | .setb level => packWord 0x2 0 0 0 0 level
  | .clear => packWord 0x3 0 0 0 0 0
  | .drowd row pattern dev => packWord 0x4 0 0 (BitVec.ofNat 8 dev) (BitVec.ofNat 8 row) pattern
  | .drowdAll row pattern => packWord 0x4 1 0 0 (BitVec.ofNat 8 row) pattern
  | .wreg addr data dev => packWord 0x5 0 0 (BitVec.ofNat 8 dev) addr data
  | .wregAll addr data => packWord 0x5 1 0 0 addr data

/-- The bytes of a command as the bus carries them. -/
def encodeBytes (i : Instr) : List Byte := wordLanes (encode i)

/-! ### The opcode table -/

/-- One row of spec/opcode_table.json: a word `w` belongs to the row when `w &&& mask = pattern`. -/
structure OpcodeRow where
  mnemonic : String
  pattern : Word
  mask : Word
deriving DecidableEq, Repr

/-- The rows of spec/opcode_table.json, its "match" and "mask" as they stand there. -/
def opcodeTable : List OpcodeRow :=
  [⟨"INIT", 0x10000000, 0xFFFFFFFF⟩,
   ⟨"SETB", 0x20000000, 0xFFFFFF00⟩,
   ⟨"CLEAR", 0x30000000, 0xFFFFFFFF⟩,
   ⟨"DROWD", 0x40000000, 0xFF000000⟩,
   ⟨"DROWD.ALL", 0x48000000, 0xFFFF0000⟩,
   ⟨"WREG", 0x50000000, 0xFF000000⟩,
   ⟨"WREG.ALL", 0x58000000, 0xFFFF0000⟩]

/-- The word belongs to the row. -/
def OpcodeRow.matches (r : OpcodeRow) (w : Word) : Bool := w &&& r.mask == r.pattern

/-- The row's name of each command. -/
def Instr.mnemonic : Instr → String
  | .init => "INIT"
  | .setb _ => "SETB"
  | .clear => "CLEAR"
  | .drowd _ _ _ => "DROWD"
  | .drowdAll _ _ => "DROWD.ALL"
  | .wreg _ _ _ => "WREG"
  | .wregAll _ _ => "WREG.ALL"

/-- The table's word of `nbits` bits, numbered as the table numbers them, with every higher bit zero. Every command is
exactly one 32-bit word (R95). -/
def tableWord (nbits w : Nat) : Word := BitVec.ofNat 32 (w % 2 ^ nbits)

/-- What the decoder reads from the instruction whose bits are `w`, laid out in the lanes of R64. -/
def decodeTableWord (nbits w : Nat) : Option Instr :=
  match decodeBytes (wordLanes (tableWord nbits w)) with
  | .ok i => some i
  | .error _ => none

end Sys2Proof
end

