-- ==== Sys2Proof/Machine/Addressing.lean ====
section
/-! DEFINITION. The frame-level commands DROWD and WREG, targeted and broadcast (41_addressing.md R156, R160). -/

namespace Sys2Proof.Machine

/-- `EventsOf(DROWD(row, pattern, target))` (R156): the row check comes first, so a dropped command never sets CLAMP. -/
def workDrowd (cfg : Config) (row : Nat) (pattern : Byte) (target : Target) : Work :=
  if rowInRange row then Work.toTarget cfg.n (rowAddr row) pattern target else Work.dropped

/-- `EventsOf(WREG(addr, data, target))` (R160): the address and the data byte are sent unchanged. -/
def workWreg (cfg : Config) (addr data : Byte) (target : Target) : Work := Work.toTarget cfg.n addr data target

/-- DROWD to one device (R156). -/
def execDrowd (row : Nat) (pattern : Byte) (dev : Nat) (s : State) : Host.Outcome State Fault Refusal :=
  .next (s.acceptWork false (workDrowd s.cfg row pattern (.dev dev)))

/-- DROWD.ALL (R156). -/
def execDrowdAll (row : Nat) (pattern : Byte) (s : State) : Host.Outcome State Fault Refusal :=
  .next (s.acceptWork false (workDrowd s.cfg row pattern .all))

/-- WREG to one device (R160). -/
def execWreg (addr data : Byte) (dev : Nat) (s : State) : Host.Outcome State Fault Refusal :=
  .next (s.acceptWork false (workWreg s.cfg addr data (.dev dev)))

/-- WREG.ALL (R160). -/
def execWregAll (addr data : Byte) (s : State) : Host.Outcome State Fault Refusal :=
  .next (s.acceptWork false (workWreg s.cfg addr data .all))

end Sys2Proof.Machine
end

