-- ==== Sys2Proof/Machine/Driver.lean ====
section
/-! DEFINITION. The session-level commands INIT, SETB and CLEAR (42_driver_ops.md R180 to R188). -/

namespace Sys2Proof.Machine

/-- `ClearFrames` (R187): the eight row registers, ascending, each with data 0. -/
def clearFrames (n : Nat) : List Frame := [1, 2, 3, 4, 5, 6, 7, 8].map fun r : Byte => broadcastFrame n r 0x00

/-- INIT's frames in R182's order: scan-limit, decode-mode, shutdown, display-test, the full clear, intensity. -/
def initFrames (cfg : Config) : List Frame :=
  [broadcastFrame cfg.n cfg.regScanLimit 0x07,
   broadcastFrame cfg.n cfg.regDecode 0x00,
   broadcastFrame cfg.n cfg.regShutdown 0x01,
   broadcastFrame cfg.n cfg.regTest 0x00] ++
  clearFrames cfg.n ++
  [broadcastFrame cfg.n cfg.regIntensity 0x0F]

/-- `EventsOf(INIT)` (R180). -/
def workInit (cfg : Config) : Work := ⟨[], true, initFrames cfg⟩

/-- `EventsOf(SETB(level))` (R185). -/
def workSetb (cfg : Config) (level : Byte) : Work := Work.broadcast cfg.n cfg.regIntensity (maskLevel level)

/-- `EventsOf(CLEAR)` (R188). -/
def workClear (cfg : Config) : Work := ⟨[], false, clearFrames cfg.n⟩

/-- INIT (R180): the only command accepted while OE = 0, and accepted again at any time BUSY = 0 (R183). -/
def execInit (s : State) : Host.Outcome State Fault Refusal := .next (s.acceptWork true (workInit s.cfg))

/-- SETB (R185). -/
def execSetb (level : Byte) (s : State) : Host.Outcome State Fault Refusal :=
  .next (s.acceptWork false (workSetb s.cfg level))

/-- CLEAR (R188). -/
def execClear (s : State) : Host.Outcome State Fault Refusal := .next (s.acceptWork false (workClear s.cfg))

end Sys2Proof.Machine
end

