-- ==== Sys2Proof/Machine/Dispatch.lean ====
section
/-! DEFINITION. One arm per command: the meaning of a command written to CMD, run against S(n) (30_encoding.md R97). -/

namespace Sys2Proof.Machine

def exec (i : Instr) (s : State) : Host.Outcome State Fault Refusal :=
  match i with
  | .init => Sys2Proof.Machine.execInit s
  | .setb level => Sys2Proof.Machine.execSetb level s
  | .clear => Sys2Proof.Machine.execClear s
  | .drowd row pattern dev => Sys2Proof.Machine.execDrowd row pattern dev s
  | .drowdAll row pattern => Sys2Proof.Machine.execDrowdAll row pattern s
  | .wreg addr data dev => Sys2Proof.Machine.execWreg addr data dev s
  | .wregAll addr data => Sys2Proof.Machine.execWregAll addr data s

end Sys2Proof.Machine
end

