-- ==== Sys2Proof/Machine/Window.lean ====
section
/-! DEFINITION. The host register window, the host program and the reset input: which accesses the window admits, what a read returns, what a
write does, and how the host's operations make accesses (20_memory.md R61 to R67; 30_encoding.md R97, R102). -/

namespace Sys2Proof.Machine

/-! ### The window -/

/-- The four word registers of the window (R61). -/
inductive WindowReg where
  | cmd
  | status
  | pins
  | reserved
deriving DecidableEq, Repr

/-- The byte offset of a register (R61). -/
def WindowReg.offset : WindowReg → Nat
  | .cmd => 0x0
  | .status => 0x4
  | .pins => 0x8
  | .reserved => 0xC

/-- How the window answers an access of `n` bytes at `addr`. -/
inductive WindowHit where
  /-- An aligned 32-bit access to this register. -/
  | reg (r : WindowReg)
  /-- Any other access that touches the window (R62), and one of width 0 at BASE+1..BASE+15 (log 20, DESIGN CHOICE). -/
  | busError
  /-- No byte of the window is touched; an access of width 0 at BASE+1..BASE+15 is `busError` instead (log 20). -/
  | outside
deriving DecidableEq, Repr

/-- R62: only 4 bytes at BASE + 0x0, 0x4, 0x8 or 0xC; every other access that touches BASE..BASE+15 is a bus error.
DESIGN CHOICE, the spec leaving both open: an access that touches the window only in part is an access to it (log 9), and an access
of width 0 is a bus error at BASE+1..BASE+15 and outside the window at every other address, BASE included (log 20). -/
def windowHit (base addr n : Nat) : WindowHit :=
  if addr < base + 16 ∧ base < addr + n then
    if n = 4 then
      if addr = base + WindowReg.cmd.offset then .reg .cmd
      else if addr = base + WindowReg.status.offset then .reg .status
      else if addr = base + WindowReg.pins.offset then .reg .pins
      else if addr = base + WindowReg.reserved.offset then .reg .reserved
      else .busError
    else .busError
  else .outside

/-- What a read returns (R61): CMD and the reserved offset read 0. -/
def State.readWindow (s : State) : WindowReg → Word
  | .cmd => 0
  | .status => s.statusWord
  | .pins => s.pinsWord
  | .reserved => 0

/-- `Accept(w)` (R97): a legal word runs its command; an illegal one is discarded. -/
def State.accept (s : State) (w : Word) : Host.Outcome State Fault Refusal :=
  match decode w with
  | .ok i => exec i s
  | .error _ => .next s.acceptIllegal

/-- What a write does (R61): CMD accepts a command, STATUS clears flags (R23), PINS and the reserved offset ignore it. -/
def State.writeWindow (s : State) (r : WindowReg) (w : Word) : Host.Outcome State Fault Refusal :=
  match r with
  | .cmd => s.accept w
  | .status => .next { s with flags := s.flags.writeOneToClear w }
  | .pins => .next s
  | .reserved => .next s

/-- A value returned to the host (R63, R66). -/
def State.returnRead (s : State) (addr : Nat) (v : Word) : State :=
  { s with reads := s.reads ++ [⟨s.cycle, addr, v⟩] }

/-- One host access performed against S(n) (R62, R63). A read has no side effect (R65). -/
def State.access (s : State) : Access → Host.Outcome State Fault Refusal
  | .read addr n =>
    match windowHit s.cfg.base addr n with
    | .reg r => .next (s.returnRead addr (s.readWindow r))
    | .busError => .fault (.busError addr n)
    | .outside => .refused (.outsideWindow addr n)
  | .write addr bytes =>
    match windowHit s.cfg.base addr bytes.length, wordOfLanes bytes with
    | .reg r, some w => s.writeWindow r w
    | .outside, _ => .refused (.outsideWindow addr bytes.length)
    | _, _ => .fault (.busError addr bytes.length)

/-! ### The host program -/

/-- The bus access a host operation makes (R102). -/
def HostOp.access (base : Nat) : HostOp → Option Access
  | .cmd w => some (.write (base + WindowReg.cmd.offset) (wordLanes w))
  | .wait => some (.read (base + WindowReg.status.offset) 4)
  | .rdStatus => some (.read (base + WindowReg.status.offset) 4)
  | .rdPins => some (.read (base + WindowReg.pins.offset) 4)
  | .w1c m => some (.write (base + WindowReg.status.offset) (wordLanes m))
  | .bus a => some a
  | .idle => none

/-- The host operation of this cycle; a host with nothing left to do is idle. -/
def State.hostOp (s : State) : HostOp := s.host.headD .idle

/-- The access of this cycle, if any (R63: at most one). -/
def State.hostAccess (s : State) : Option Access := s.hostOp.access s.cfg.base

/-- The access of this cycle performed against S(n). -/
def State.hostCycle (s : State) : Host.Outcome State Fault Refusal :=
  match s.hostAccess with
  | some a => s.access a
  | none => .next s

/-- The host's operations after this cycle: `wait` stays until its STATUS read has bit 0 = 0 (R102). -/
def State.hostRest (s : State) : List HostOp :=
  if s.hostOp = .wait ∧ s.busy then s.host else s.host.tail

/-- The address of a read that touches the window; every other access returns DCSC's host no value.
A read of width 0 counts where `windowHit` has it a bus error (log 20, DESIGN CHOICE). -/
def Access.windowRead (base : Nat) : Access → Option Nat
  | .read addr n => if windowHit base addr n = .outside then none else some addr
  | .write _ _ => none

/-- The host's side of a cycle with reset asserted (R66): its access has no effect, and a read returns 0. -/
def State.hostInReset (s : State) : State :=
  match s.hostAccess.bind (Access.windowRead s.cfg.base) with
  | some addr => s.returnRead addr 0
  | none => s

/-! ### The inputs of a cycle -/

/-- `rst` in this cycle (R270); a sample that is not there is deasserted (log 2). -/
def State.rstAsserted (s : State) : Bool := s.rst.headD false

/-- The inputs of this cycle are used up. -/
def State.takeInputs (s : State) (hostRest : List HostOp) : State :=
  { s with host := hostRest, rst := s.rst.tail }

end Sys2Proof.Machine
end

