-- ==== Sys2Proof/Machine/Step.lean ====
section
/-! DEFINITION. One controller clock cycle: S(n) to S(n+1) (00_scope.md R8), and the host's way of placing one command. -/

namespace Sys2Proof.Machine

/-- One cycle. Reset has the highest priority (R245); then the host access and the sequencer both read S(n), and their writes
land together in S(n+1) (R63). -/
def step (s : State) : Host.Outcome State Fault Refusal :=
  if s.rstAsserted then .next (s.hostInReset.resetCycle.takeInputs s.host.tail)
  else
    match s.hostCycle with
    | .next acc => .next ((s.passCycle acc).takeInputs s.hostRest)
    | .fault r => .fault r
    | .refused r => .refused r

/-- `s` with one more host cycle before its own, in which `rst` is deasserted and the host writes to CMD the table's word of
`nbits` bits (log 3). A command comes to DCSC in no other way: it fetches nothing (R21, R60). -/
def State.withFetchWord (s : State) (nbits w : Nat) : State :=
  { s with host := .cmd (tableWord nbits w) :: s.host, rst := false :: s.rst }

end Sys2Proof.Machine
end

