-- ==== Sys2Proof/Machine/Assembler.lean ====
section
/-! DEFINITION. The text form of a command and its word (30_encoding.md R100, R101), and the host notation `cmd X` (R102). Lines
are lists of characters, so that the kernel can read them. -/

namespace Sys2Proof.Machine

/-- One command line of R100, or a pseudo-instruction of R101, its operands not yet checked. -/
inductive AsmLine where
  | init
  | setb (level : Nat)
  | clear
  | drowd (row pattern : Nat) (target : Target)
  | wreg (addr data : Nat) (target : Target)
  /-- The pseudo-instruction `DROW row, pattern`. -/
  | drow (row pattern : Nat)
  /-- The pseudo-instruction `NOPF`. -/
  | nopf
deriving DecidableEq, Repr

/-- Why a line is an assembly error. -/
inductive AsmError where
  /-- A value that does not fit its 8-bit field (R100): never cut down. -/
  | doesNotFit (value : Nat)
  /-- The line has none of the forms of R100 and R101. -/
  | noSuchForm
deriving DecidableEq, Repr

/-- The numbers of a target that must fit the DEV field. -/
def Target.operands : Target → List Nat
  | .all => []
  | .dev d => [d]

/-- Every number of the line that must fit an 8-bit field (R100). -/
def AsmLine.operands : AsmLine → List Nat
  | .init => []
  | .setb level => [level]
  | .clear => []
  | .drowd row pattern target => row :: pattern :: Target.operands target
  | .wreg addr data target => addr :: data :: Target.operands target
  | .drow row pattern => [row, pattern]
  | .nopf => []

/-- `DROW` and `NOPF` expanded (R101). -/
def AsmLine.expand : AsmLine → AsmLine
  | .drow row pattern => .drowd row pattern .all
  | .nopf => .wreg 0x00 0x00 .all
  | l => l

/-- The command a line stands for, for operands that fit. -/
def AsmLine.instr : AsmLine → Instr
  | .init => .init
  | .setb level => .setb (BitVec.ofNat 8 level)
  | .clear => .clear
  | .drowd row pattern (.dev d) => .drowd row (BitVec.ofNat 8 pattern) d
  | .drowd row pattern .all => .drowdAll row (BitVec.ofNat 8 pattern)
  | .wreg addr data (.dev d) => .wreg (BitVec.ofNat 8 addr) (BitVec.ofNat 8 data) d
  | .wreg addr data .all => .wregAll (BitVec.ofNat 8 addr) (BitVec.ofNat 8 data)
  | .drow row pattern => .drowdAll row (BitVec.ofNat 8 pattern)
  | .nopf => .wregAll 0x00 0x00

/-- The word column of R100's table, for operands that fit. -/
def AsmLine.word : AsmLine → Word
  | .init => 0x10000000
  | .setb level => 0x20000000 ||| BitVec.ofNat 32 level
  | .clear => 0x30000000
  | .drowd row pattern (.dev d) =>
    0x40000000 ||| BitVec.ofNat 32 d <<< 16 ||| BitVec.ofNat 32 row <<< 8 ||| BitVec.ofNat 32 pattern
  | .drowd row pattern .all => 0x48000000 ||| BitVec.ofNat 32 row <<< 8 ||| BitVec.ofNat 32 pattern
  | .wreg addr data (.dev d) =>
    0x50000000 ||| BitVec.ofNat 32 d <<< 16 ||| BitVec.ofNat 32 addr <<< 8 ||| BitVec.ofNat 32 data
  | .wreg addr data .all => 0x58000000 ||| BitVec.ofNat 32 addr <<< 8 ||| BitVec.ofNat 32 data
  | .drow row pattern => 0x48000000 ||| BitVec.ofNat 32 row <<< 8 ||| BitVec.ofNat 32 pattern
  | .nopf => 0x58000000

/-- The word of a line, or the assembly error of its first operand that does not fit (R100). -/
def assemble (l : AsmLine) : Except AsmError Word :=
  match l.operands.find? fun v => !fitsField v with
  | some v => .error (.doesNotFit v)
  | none => .ok l.expand.word

/-! ### Reading the text (log 14) -/

/-- Blank and tab separate; they carry no meaning elsewhere. -/
def isBlank (c : Char) : Bool := c == ' ' || c == '\t'

/-- The characters without the blanks at either end. -/
def trimBlanks (cs : List Char) : List Char := ((cs.dropWhile isBlank).reverse.dropWhile isBlank).reverse

/-- The line up to its comment (R100: a `;` starts a comment). -/
def dropComment (cs : List Char) : List Char := cs.takeWhile (· != ';')

/-- The pieces between commas; a line with no comma is one piece. -/
def splitCommas : List Char → List (List Char)
  | [] => [[]]
  | c :: cs =>
    if c == ',' then [] :: splitCommas cs
    else match splitCommas cs with
      | [] => [[c]]
      | piece :: rest => (c :: piece) :: rest

/-- The value of a digit in a base up to 16, upper or lower case. -/
def digitValue (base : Nat) (c : Char) : Option Nat :=
  let v :=
    if '0' ≤ c ∧ c ≤ '9' then some (c.toNat - '0'.toNat)
    else if 'a' ≤ c ∧ c ≤ 'f' then some (c.toNat - 'a'.toNat + 10)
    else if 'A' ≤ c ∧ c ≤ 'F' then some (c.toNat - 'A'.toNat + 10)
    else none
  v.filter (· < base)

/-- The value of the digits read so far, continued. -/
def digitsFrom (base acc : Nat) : List Char → Option Nat
  | [] => some acc
  | c :: cs => match digitValue base c with
    | some v => digitsFrom base (acc * base + v) cs
    | none => none

/-- A number of at least one digit in this base. -/
def digits (base : Nat) (cs : List Char) : Option Nat := if cs.isEmpty then none else digitsFrom base 0 cs

/-- A number: `0x` hex, `0b` binary, otherwise decimal (R100). -/
def parseNumber : List Char → Option Nat
  | '0' :: 'x' :: cs => digits 16 cs
  | '0' :: 'b' :: cs => digits 2 cs
  | cs => digits 10 cs

/-- A target operand: `ALL`, or a device number (R100). -/
def parseTarget (cs : List Char) : Option Target :=
  if cs = ['A', 'L', 'L'] then some .all else (parseNumber cs).map .dev

/-- The forms of R100 and R101, given the mnemonic and the operands. -/
def parseForm (mnemonic : List Char) (operands : List (List Char)) : Option AsmLine :=
  if mnemonic = ['I', 'N', 'I', 'T'] then
    match operands with
    | [] => some .init
    | _ => none
  else if mnemonic = ['S', 'E', 'T', 'B'] then
    match operands with
    | [l] => (parseNumber l).map .setb
    | _ => none
  else if mnemonic = ['C', 'L', 'E', 'A', 'R'] then
    match operands with
    | [] => some .clear
    | _ => none
  else if mnemonic = ['D', 'R', 'O', 'W', 'D'] then
    match operands with
    | [r, p, t] => match parseNumber r, parseNumber p, parseTarget t with
      | some row, some pattern, some target => some (.drowd row pattern target)
      | _, _, _ => none
    | _ => none
  else if mnemonic = ['W', 'R', 'E', 'G'] then
    match operands with
    | [a, d, t] => match parseNumber a, parseNumber d, parseTarget t with
      | some addr, some data, some target => some (.wreg addr data target)
      | _, _, _ => none
    | _ => none
  else if mnemonic = ['D', 'R', 'O', 'W'] then
    match operands with
    | [r, p] => match parseNumber r, parseNumber p with
      | some row, some pattern => some (.drow row pattern)
      | _, _ => none
    | _ => none
  else if mnemonic = ['N', 'O', 'P', 'F'] then
    match operands with
    | [] => some .nopf
    | _ => none
  else none

/-- The line's command, `none` for a line that holds nothing but a comment or blanks. -/
def parseLine (line : List Char) : Except AsmError (Option AsmLine) :=
  let text := trimBlanks (dropComment line)
  if text.isEmpty then .ok none
  else
    let mnemonic := text.takeWhile fun c => !isBlank c
    let rest := trimBlanks (text.dropWhile fun c => !isBlank c)
    let operands := if rest.isEmpty then [] else (splitCommas rest).map trimBlanks
    match parseForm mnemonic operands with
    | some l => .ok (some l)
    | none => .error .noSuchForm

/-- One line of text to its command word (R100). -/
def assembleText (line : List Char) : Except AsmError (Option Word) :=
  match parseLine line with
  | .error e => .error e
  | .ok none => .ok none
  | .ok (some l) => match assemble l with
    | .error e => .error e
    | .ok w => .ok (some w)

/-- The host operation `cmd X` (R102), where X is a line of R100. -/
def cmdOf (l : AsmLine) : Except AsmError HostOp :=
  match assemble l with
  | .error e => .error e
  | .ok w => .ok (.cmd w)

end Sys2Proof.Machine
end

