-- ==== Sys2Proof/Machine/Counters.lean ====
section
/-! DEFINITION. The counter realisation of the sequencer, the form R29 calls equivalent to the event list (10_state.md R29;
40_transport.md R122). The machine itself holds the list `Q` (log 13). -/

namespace Sys2Proof.Machine

/-- `stage` (R29). -/
inductive Stage where
  | setup0
  | setup1
  | setup2
  | setup3
  | llo
  | bit
  | lhi
deriving DecidableEq, Repr

/-- The counters of R29. -/
structure Counters where
  /-- `FP`, the command's frame program. -/
  fp : List Frame
  /-- `fi`, the frame index. -/
  fi : Nat
  stage : Stage
  /-- `j`, the slot index. -/
  j : Nat
  /-- `b`, the byte index in the pair: 0 is the address, 1 the data. -/
  b : Nat
  /-- `i`, the bit index, 7 down to 0. -/
  i : Nat
  /-- `p`, the phase in the bit, 0..2. -/
  p : Nat
  /-- `SR`, the output shift register. -/
  sr : Byte
deriving DecidableEq, Repr

namespace Counters

/-- The frame being sent. -/
def frame (c : Counters) : Frame := c.fp.getD c.fi []

/-- The byte of slot j, byte b. -/
def byte (c : Counters) : Byte :=
  let pair := c.frame.getD c.j ⟨0, 0⟩
  if c.b = 0 then pair.addr else pair.data

/-- The event of the present counters (R29, R122, R124, R181). -/
def event (c : Counters) : Event :=
  match c.stage with
  | .setup0 => ⟨.oe, true⟩
  | .setup1 => ⟨.load, true⟩
  | .setup2 => ⟨.clk, false⟩
  | .setup3 => ⟨.data, false⟩
  | .llo => ⟨.load, false⟩
  | .bit =>
    if c.p = 0 then ⟨.clk, false⟩
    else if c.p = 1 then ⟨.data, c.sr.getLsbD 7⟩
    else ⟨.clk, true⟩
  | .lhi => ⟨.load, true⟩

/-- The counters at the first bit of a byte. -/
def atByte (c : Counters) (j b : Nat) : Counters := { c with stage := .bit, j := j, b := b, i := 7, p := 0 }

/-- After the third phase of a bit: the next bit, the next byte, the next slot, or LOAD rising (R29). -/
def afterBit (c : Counters) : Counters :=
  if c.i ≠ 0 then { c with i := c.i - 1, p := 0 }
  else if c.b = 0 then c.atByte c.j 1
  else if c.j + 1 < c.frame.length then c.atByte (c.j + 1) 0
  else { c with stage := .lhi }

/-- The counters after the present event; `none` when the command is done. SR takes the byte at phase 0 of bit 7 and shifts
left by one after the third event of each bit (R29, R122). -/
def advance (c : Counters) : Option Counters :=
  match c.stage with
  | .setup0 => some { c with stage := .setup1 }
  | .setup1 => some { c with stage := .setup2 }
  | .setup2 => some { c with stage := .setup3 }
  | .setup3 => some { c with stage := .llo }
  | .llo => some (c.atByte 0 0)
  | .bit =>
    if c.p = 0 then some { c with p := 1, sr := if c.i = 7 then c.byte else c.sr }
    else if c.p = 1 then some { c with p := 2 }
    else some { c with sr := c.sr <<< 1 }.afterBit
  | .lhi => if c.fi + 1 < c.fp.length then some { c with fi := c.fi + 1, stage := .llo } else none

/-- The counters at the start of a command. What the other counters hold there is not read (R29). -/
def start (w : Work) : Counters where
  fp := w.frames
  fi := 0
  stage := if w.setup then .setup0 else .llo
  j := 0
  b := 0
  i := 7
  p := 0
  sr := 0

/-- The events the counters perform in at most `fuel` event slots, and the counters left after them. -/
def run : Nat → Option Counters → List Event × Option Counters
  | 0, c => ([], c)
  | _ + 1, none => ([], none)
  | fuel + 1, some c =>
    let rest := run fuel c.advance
    (c.event :: rest.1, rest.2)

end Counters

end Sys2Proof.Machine
end

