-- ==== Sys2Proof/Safety.lean ====
section
/-! DEFINITION. What a claim about DCSC may take as a premise or prove: the states a run can be in (`Inv`), a run that stops on
nothing, and a run in which no word was refused (60_exceptions.md R241). -/

namespace Sys2Proof.Machine

/-- A chain of `n` devices, each with a 16-bit shift register (R212). -/
abbrev Chain.Shaped (n : Nat) (c : Chain) : Prop := c.devices.length = n ∧ ∀ d ∈ c.devices, d.sr.length = 16

/-- What holds in every state a run can be in: legal parameters (R4), `T` in 0..C-1 (R20), a chain of N devices (R212), no
event that would write `(OE, 0)` (R127), while the lines are undriven every device bit ⊥ (R219) and nothing queued but an
INIT at its first event (R242), and LOAD high once the queue has been performed (R31, R126). -/
structure State.Inv (s : State) : Prop where
  cfg : s.cfg.Valid
  slot : s.t < s.cfg.eventCycles
  chain : s.chain.Shaped s.cfg.n
  oeOnly : ∀ e ∈ s.q, e.line = .oe → e.level = true
  undriven : s.out.oe = false → s.chain = Chain.unknown s.cfg.n
  gated : s.out.oe = false → s.q = [] ∨ s.q.head? = some ⟨.oe, true⟩
  settles : (s.q.foldl Out.perform s.out).load = true

/-- A run of k cycles. -/
abbrev runFor (k : Nat) (s : State) : Host.Outcome State Fault Refusal := Host.Core.run Sys2Proof.core k s

/-- An idle, configured machine whose host writes the word of `i` in this cycle and then does nothing, with no reset to come:
the premise under which a claim speaks of what one command does. -/
structure State.ReadyFor (s : State) (i : Instr) : Prop where
  inv : s.Inv
  idle : s.q = []
  configured : s.out.oe = true
  host : s.host = [.cmd (encode i)]
  rst : s.rst = []

/-- `OVR = ILL = NCFG = 0` (R241): the host asked for nothing that the source gives no meaning to. -/
def State.clean (s : State) : Bool := !s.flags.ovr && !s.flags.ill && !s.flags.ncfg

/-- The state after an outcome that is one. -/
def nextState {σ φ ρ : Type} : Host.Outcome σ φ ρ → Option σ
  | .next t => some t
  | .fault _ => none
  | .refused _ => none

/-- A run of k cycles that stops on nothing and ends clean, so that a claim about the displays may be made of it (R241). -/
def SafeRun (k : Nat) (s : State) : Prop := ∃ t, runFor k s = .next t ∧ t.clean = true

end Sys2Proof.Machine
end

