-- ==== Sys2Proof/Certificates/Slice0/Obligations.lean ====
section
/-! DEFINITION. The statements for the provers. R<n> is a numbered rule of spec/; the file of each rule is in OBLIGATIONS.json. -/

open Sys2Proof Sys2Proof.Machine

/-! ### Command words -/

/-- R93, R96, R100: decoding the word, or the bytes, of a well-formed command gives that command back. -/
def Obligations.DecodeOfEncodeIsTheCommand : Prop :=
  ∀ i : Instr, i.wellFormed = true → decode (encode i) = .ok i ∧ decodeBytes (encodeBytes i) = .ok i

/-- R93: a legal word has one meaning, and it is the word of that meaning. -/
def Obligations.EncodeOfDecodeIsTheWord : Prop :=
  ∀ (w : Word) (i : Instr), decode w = .ok i → i.wellFormed = true ∧ encode i = w

/-- R95: the decoder is total on the 2^32 words, every command is exactly 32 bits, and nothing but the word decides. -/
def Obligations.EveryWordIsLegalOrIllegal : Prop :=
  (∀ w : Word, (legal w = true ∧ ∃ i, decode w = .ok i) ∨ (legal w = false ∧ decode w = .error (.illegal w))) ∧
  (∀ bytes : List Byte, bytes.length ≠ 4 → decodeBytes bytes = .error (.wrongLength bytes.length)) ∧
  (∀ w : Word, decodeBytes (wordLanes w) = decode w)

/-- R92, R93 and the opcode table: the legal words are those of the table's rows, the rows do not overlap, and a word decodes
to its row's command. -/
def Obligations.LegalWordsAreTheTableRows : Prop :=
  ∀ w : Word,
    (legal w = true ↔ ∃ r ∈ opcodeTable, r.matches w = true) ∧
    (∀ r ∈ opcodeTable, ∀ r' ∈ opcodeTable, r.matches w = true → r'.matches w = true → r = r') ∧
    (∀ i, decode w = .ok i → ∃ r ∈ opcodeTable, r.matches w = true ∧ r.mnemonic = i.mnemonic)

/-- 95_test_vectors.md V-ENC-1: words written out from the spec's encoding decode as the table there says. -/
def Obligations.WordsOfTheSpecDecode : Prop :=
  decode 0x10000000 = .ok .init ∧ decode 0x200000FF = .ok (.setb 0xFF) ∧ decode 0x30000000 = .ok .clear ∧
  decode 0x400200FF = .ok (.drowd 0 0xFF 2) ∧ decode 0x480003A5 = .ok (.drowdAll 3 0xA5) ∧
  decode 0x50010C00 = .ok (.wreg 0x0C 0x00 1) ∧ decode 0x58000A0F = .ok (.wregAll 0x0A 0x0F) ∧
  decode 0x48010000 = .error (.illegal 0x48010000) ∧ decode 0x41000000 = .error (.illegal 0x41000000) ∧
  decode 0x20000100 = .error (.illegal 0x20000100) ∧ decode 0x60000000 = .error (.illegal 0x60000000)

/-- R100, R101: a line whose values fit assembles to the word of its command, and a value that does not fit is an error,
never cut down. -/
def Obligations.AssemblerGivesTheCommandWord : Prop :=
  ∀ l : AsmLine,
    ((∀ v ∈ l.operands, v < 256) → assemble l = .ok (encode l.instr) ∧ l.instr.wellFormed = true) ∧
    ((∃ v ∈ l.operands, 256 ≤ v) → ∃ v ∈ l.operands, 256 ≤ v ∧ assemble l = .error (.doesNotFit v))

/-! ### A step and the command it runs -/

/-- R97, R63: in a cycle without reset, a write of a command's bytes to CMD runs exactly that command against S(n); around it
the step passes the rest of the cycle and uses up the cycle's inputs. The host operation `cmd` makes such a write (R102). -/
def Obligations.StepRunsTheDecodedCommand : Prop :=
  (∀ (s : State) (bytes : List Byte) (i : Instr), s.rstAsserted = false → s.hostAccess = some (.write s.cfg.base bytes) →
    decodeBytes bytes = .ok i →
    step s = match exec i s with
      | .next a => .next ((s.passCycle a).takeInputs s.host.tail)
      | .fault r => .fault r
      | .refused r => .refused r) ∧
  (∀ (s : State) (w : Word) (rest : List HostOp), s.host = .cmd w :: rest →
    s.hostAccess = some (.write s.cfg.base (wordLanes w)) ∧ s.host.tail = rest)

/-- R94, R97: a word that is not legal, written while idle, sets ILL, drives no line and changes no other state of DCSC. -/
def Obligations.IllegalWordSetsIllAlone : Prop :=
  ∀ (s : State) (w : Word) (rest : List HostOp), s.rstAsserted = false → s.host = .cmd w :: rest → s.q = [] → legal w = false →
    ∃ t, step s = .next t ∧ t.flags = { s.flags with ill := true } ∧ t.out = s.out ∧ t.q = [] ∧ t.t = s.t ∧
      t.trace = s.trace ∧ t.cfg = s.cfg ∧ t.reads = s.reads ∧ t.host = rest

/-- R243, R245: any word written while BUSY = 1, legal or not, sets OVR, and the running command goes on as if nothing had
been written. -/
def Obligations.BusyWriteSetsOvrAlone : Prop :=
  ∀ (s : State) (w : Word) (rest : List HostOp), s.rstAsserted = false → s.host = .cmd w :: rest → s.q ≠ [] →
    ∃ t u, step s = .next t ∧ step { s with host := .idle :: rest } = .next u ∧
      t = { u with flags := { u.flags with ovr := true } }

/-! ### Reset -/

/-- R31, R218: the machine right after power-on reset, for every choice of the parameters. -/
def Obligations.PowerOnValues : Prop :=
  ∀ cfg : Config,
    (State.resetWith cfg).out = ⟨false, false, true, false⟩ ∧ (State.resetWith cfg).q = [] ∧ (State.resetWith cfg).t = 0 ∧
    (∀ f, (State.resetWith cfg).flags.get f = false) ∧ (State.resetWith cfg).busy = false ∧
    (State.resetWith cfg).cfg = cfg ∧ (State.resetWith cfg).chain.ec = none ∧
    (State.resetWith cfg).chain.devices.length = cfg.n ∧
    ∀ d ∈ (State.resetWith cfg).chain.devices, d.sr = List.replicate 16 none ∧
      d.regs = ⟨Vector.replicate 8 none, none, none, none, none, none⟩

/-- R270, R66, R271, R272: a cycle with `rst` asserted, whatever S(n) and the host did. The access of the cycle has no effect,
and a read of the window returns 0. The model's reading, not the spec's words: the chain is unknown already in S(n+1) (log 5,
DEDUCED); the cycle uses up the host's operation, so a `wait` in it ends, and a read of any width returns 0 (log 12, DEDUCED), one
of width 0 at BASE + 1 to BASE + 15 included (log 20, DESIGN CHOICE). -/
def Obligations.ResetCycleGivesResetValues : Prop :=
  ∀ s : State, s.rstAsserted = true →
    ∃ t, step s = .next t ∧ t.out = ⟨false, false, true, false⟩ ∧ t.q = [] ∧ t.t = 0 ∧ (∀ f, t.flags.get f = false) ∧
      t.trace = s.trace ++ [.reset s.cycle] ∧ t.cfg = s.cfg ∧ t.chain = Chain.unknown s.cfg.n ∧ t.cycle = s.cycle + 1 ∧
      t.host = s.host.tail ∧ t.rst = s.rst.tail ∧
      (∀ addr n, s.hostAccess = some (.read addr n) → addr < s.cfg.base + 16 → s.cfg.base < addr + n →
        t.reads = s.reads ++ [⟨s.cycle, addr, 0⟩]) ∧
      ((∀ addr n, s.hostAccess ≠ some (.read addr n)) → t.reads = s.reads)

/-! ### The invariant -/

/-- The invariant of `State.Inv` holds after power-on reset, for all legal parameters; the parameters of `State.reset` are the
model's choice (log 1). -/
def Obligations.ResetMeetsTheInvariant : Prop :=
  (∀ cfg : Config, cfg.Valid → (State.resetWith cfg).Inv) ∧ State.reset.Inv

/-- From every state that meets the invariant, whatever the host and the reset input do, a step gives a state that meets it. -/
def Obligations.StepKeepsTheInvariant : Prop :=
  ∀ s t : State, s.Inv → step s = .next t → t.Inv

/-! ### Registers of the window -/

/-- R23: the layout of STATUS as read, its write-one-to-clear write through the window, and its value at reset. -/
def Obligations.StatusReadsAndClears : Prop :=
  (∀ s : State, s.cfg.n < 256 →
    s.statusWord.getLsbD 0 = s.busy ∧ s.statusWord.getLsbD 1 = s.out.oe ∧
    (∀ f : Flag, s.statusWord.getLsbD f.statusBit = s.flags.get f) ∧
    (∀ b, 7 ≤ b → b < 16 → s.statusWord.getLsbD b = false) ∧
    (s.statusWord.extractLsb' 16 8).toNat = s.cfg.n ∧
    (∀ b, 24 ≤ b → b < 32 → s.statusWord.getLsbD b = false)) ∧
  (∀ (s : State) (v : Word) (rest : List HostOp), s.rstAsserted = false → s.host = .w1c v :: rest →
    ∃ t u, step s = .next t ∧ step { s with host := .idle :: rest } = .next u ∧ t = { u with flags := t.flags } ∧
      ∀ f : Flag, t.flags.get f = (s.flags.get f && !v.getLsbD f.statusBit)) ∧
  (∀ cfg : Config, cfg.n < 256 → (State.resetWith cfg).statusWord = BitVec.ofNat 32 (cfg.n * 65536))

/-- R26: PINS as read in cycle n is the output registers of S(n), and a write to it does nothing. -/
def Obligations.PinsReadTheOutputRegisters : Prop :=
  (∀ s : State, s.pinsWord.getLsbD 0 = s.out.data ∧ s.pinsWord.getLsbD 1 = s.out.clk ∧ s.pinsWord.getLsbD 2 = s.out.load ∧
    s.pinsWord.getLsbD 3 = s.out.oe ∧ ∀ b, 4 ≤ b → s.pinsWord.getLsbD b = false) ∧
  (∀ (s : State) (rest : List HostOp), s.rstAsserted = false → s.host = .rdPins :: rest →
    ∃ t, step s = .next t ∧ t.reads = s.reads ++ [⟨s.cycle, s.cfg.base + 0x8, s.pinsWord⟩]) ∧
  (∀ (s : State) (w : Word) (rest : List HostOp), s.rstAsserted = false →
    s.host = .bus (.write (s.cfg.base + 0x8) (wordLanes w)) :: rest →
    step s = step { s with host := .idle :: rest })

/-- R24: setting a flag sets that one and keeps the others; a flag goes from 1 to 0 only by a STATUS write with its bit 1, or by
reset; it goes from 0 to 1 only by a CMD write. -/
def Obligations.FlagsAreSticky : Prop :=
  (∀ (s : State) (f g : Flag), (s.raise [f]).flags.get g = (s.flags.get g || decide (f = g))) ∧
  ∀ (s t : State) (f : Flag), step s = .next t →
    (s.flags.get f = true → t.flags.get f = false →
      s.rstAsserted = true ∨
      ∃ w : Word, s.hostAccess = some (.write (s.cfg.base + 0x4) (wordLanes w)) ∧ w.getLsbD f.statusBit = true) ∧
    (s.flags.get f = false → t.flags.get f = true →
      s.rstAsserted = false ∧ ∃ w : Word, s.hostAccess = some (.write s.cfg.base (wordLanes w)))

/-- R25, R272: no step, a reset cycle included, changes a parameter, and STATUS.NDEV reads N before and after it. -/
def Obligations.NdevAlwaysReadsN : Prop :=
  ∀ s t : State, s.cfg.n < 256 → step s = .next t →
    t.cfg = s.cfg ∧ (s.statusWord.extractLsb' 16 8).toNat = s.cfg.n ∧ (t.statusWord.extractLsb' 16 8).toNat = s.cfg.n

/-- R62, R244: in a cycle without reset, an access that touches the window and is not 4 bytes at a multiple of 4 is the fault
`BusError(addr, n)`; the aligned 32-bit accesses are the four registers, and each of them answers a next state. It is the model's
choice that an access which touches the window only in part, from below BASE or across BASE + 15, is an access to it (log 9,
DESIGN CHOICE), and that an access of width 0 at BASE + 1 to BASE + 15 is one too (log 20, DESIGN CHOICE). -/
def Obligations.OnlyAlignedWordsAreAdmitted : Prop :=
  ∀ s : State, s.rstAsserted = false → s.cfg.base % 16 = 0 →
    (∀ addr n, s.hostAccess = some (.read addr n) → addr < s.cfg.base + 16 → s.cfg.base < addr + n →
      ¬ (n = 4 ∧ addr % 4 = 0) → step s = .fault (.busError addr n)) ∧
    (∀ addr bytes, s.hostAccess = some (.write addr bytes) → addr < s.cfg.base + 16 → s.cfg.base < addr + bytes.length →
      ¬ (bytes.length = 4 ∧ addr % 4 = 0) → step s = .fault (.busError addr bytes.length)) ∧
    (∀ addr, s.hostAccess = some (.read addr 4) → addr < s.cfg.base + 16 → s.cfg.base ≤ addr → addr % 4 = 0 →
      ∃ t, step s = .next t) ∧
    (∀ addr bytes, s.hostAccess = some (.write addr bytes) → addr < s.cfg.base + 16 → s.cfg.base ≤ addr → addr % 4 = 0 →
      bytes.length = 4 → ∃ t, step s = .next t)

/-- R61, R65: a read of any offset returns the register of S(n) and has no other effect than an idle host cycle; CMD and the
reserved offset read 0, and a write to the reserved offset does nothing. -/
def Obligations.ReadsHaveNoSideEffect : Prop :=
  (∀ (s : State) (r : WindowReg) (rest : List HostOp), s.rstAsserted = false →
    s.host = .bus (.read (s.cfg.base + r.offset) 4) :: rest →
    ∃ t u, step s = .next t ∧ step { s with host := .idle :: rest } = .next u ∧
      t = { u with reads := s.reads ++ [⟨s.cycle, s.cfg.base + r.offset, s.readWindow r⟩] }) ∧
  (∀ s : State, s.readWindow .cmd = 0 ∧ s.readWindow .status = s.statusWord ∧ s.readWindow .pins = s.pinsWord ∧
    s.readWindow .reserved = 0) ∧
  (∀ (s : State) (w : Word) (rest : List HostOp), s.rstAsserted = false →
    s.host = .bus (.write (s.cfg.base + 0xC) (wordLanes w)) :: rest → step s = step { s with host := .idle :: rest })

/-- R102: `wait` reads STATUS once a cycle and stays until a read returns bit 0 = 0. -/
def Obligations.WaitPollsUntilIdle : Prop :=
  ∀ (s : State) (rest : List HostOp), s.rstAsserted = false → s.host = .wait :: rest →
    ∃ t, step s = .next t ∧ t.reads = s.reads ++ [⟨s.cycle, s.cfg.base + 0x4, s.statusWord⟩] ∧
      t.host = if s.statusWord.getLsbD 0 then s.host else rest

/-! ### Each command completes -/

/-- R180, R181, R182: from an idle state, configured or not, INIT queues the four setup events and the thirteen broadcast
frames in order, restarts the slot counter, and changes nothing else. -/
def Obligations.InitQueuesItsEvents : Prop :=
  ∀ s : State, s.q = [] →
    exec .init s = .next { s with
      t := 0
      q := [⟨.oe, true⟩, ⟨.load, true⟩, ⟨.clk, false⟩, ⟨.data, false⟩] ++
        ([⟨s.cfg.regScanLimit, 0x07⟩, ⟨s.cfg.regDecode, 0x00⟩, ⟨s.cfg.regShutdown, 0x01⟩, ⟨s.cfg.regTest, 0x00⟩,
          ⟨1, 0⟩, ⟨2, 0⟩, ⟨3, 0⟩, ⟨4, 0⟩, ⟨5, 0⟩, ⟨6, 0⟩, ⟨7, 0⟩, ⟨8, 0⟩, ⟨s.cfg.regIntensity, 0x0F⟩] : List Pair).flatMap
          fun p => frameEvents (List.replicate s.cfg.n p) }

/-- R185: from an idle, configured state SETB queues one broadcast frame with the level masked to 4 bits, for every level. -/
def Obligations.SetbQueuesTheMaskedLevel : Prop :=
  ∀ (s : State) (level : Byte), s.q = [] → s.out.oe = true →
    exec (.setb level) s = .next { s with
      t := 0, q := frameEvents (List.replicate s.cfg.n ⟨s.cfg.regIntensity, level &&& 0x0F⟩) }

/-- R187, R188: from an idle, configured state CLEAR queues eight broadcast frames, the row registers in ascending order. -/
def Obligations.ClearQueuesEightFrames : Prop :=
  ∀ s : State, s.q = [] → s.out.oe = true →
    exec .clear s = .next { s with
      t := 0, q := ([1, 2, 3, 4, 5, 6, 7, 8] : List Byte).flatMap fun r => frameEvents (List.replicate s.cfg.n ⟨r, 0x00⟩) }

/-- R156, R151, R153: from an idle, configured state DROWD with a row 0..7 queues one frame with (row + 1, pattern) in the slot
of the device, clamped to N - 1, and the no-op pair in every other slot; CLAMP is set exactly for an index of N or more. With
a row above 7 it queues nothing and sets DROP alone. -/
def Obligations.DrowdQueuesTheTargetFrame : Prop :=
  ∀ (s : State) (row : Nat) (pattern : Byte) (dev : Nat), s.q = [] → s.out.oe = true → 1 ≤ s.cfg.n →
    (row ≤ 7 → exec (.drowd row pattern dev) s = .next { s with
      t := 0
      q := frameEvents ((List.range s.cfg.n).map fun j =>
        if j = s.cfg.n - 1 - min dev (s.cfg.n - 1) then ⟨BitVec.ofNat 8 (row + 1), pattern⟩ else ⟨0x00, 0x00⟩)
      flags := if dev < s.cfg.n then s.flags else { s.flags with clamp := true } }) ∧
    (7 < row → exec (.drowd row pattern dev) s = .next { s with flags := { s.flags with drop := true } })

/-- R156, R152: the broadcast form: N identical pairs, and no CLAMP; a row above 7 sets DROP alone. -/
def Obligations.DrowdAllQueuesTheBroadcastFrame : Prop :=
  ∀ (s : State) (row : Nat) (pattern : Byte), s.q = [] → s.out.oe = true →
    (row ≤ 7 → exec (.drowdAll row pattern) s = .next { s with
      t := 0, q := frameEvents (List.replicate s.cfg.n ⟨BitVec.ofNat 8 (row + 1), pattern⟩) }) ∧
    (7 < row → exec (.drowdAll row pattern) s = .next { s with flags := { s.flags with drop := true } })

/-- R160, R151, R153: from an idle, configured state WREG queues one frame with (addr, data), both unchanged, in the slot of the
device, clamped to N - 1; CLAMP is set exactly for an index of N or more. -/
def Obligations.WregQueuesTheTargetFrame : Prop :=
  ∀ (s : State) (addr data : Byte) (dev : Nat), s.q = [] → s.out.oe = true → 1 ≤ s.cfg.n →
    exec (.wreg addr data dev) s = .next { s with
      t := 0
      q := frameEvents ((List.range s.cfg.n).map fun j =>
        if j = s.cfg.n - 1 - min dev (s.cfg.n - 1) then ⟨addr, data⟩ else ⟨0x00, 0x00⟩)
      flags := if dev < s.cfg.n then s.flags else { s.flags with clamp := true } }

/-- R160, R152: the broadcast form: N identical pairs, sent unchanged, and no flag. -/
def Obligations.WregAllQueuesTheBroadcastFrame : Prop :=
  ∀ (s : State) (addr data : Byte), s.q = [] → s.out.oe = true →
    exec (.wregAll addr data) s = .next { s with t := 0, q := frameEvents (List.replicate s.cfg.n ⟨addr, data⟩) }

/-- R97, R242, R243: where a command is turned away. While busy every command is discarded with OVR alone; while idle and not
configured every command but INIT is discarded with NCFG alone. -/
def Obligations.CommandsTurnedAwaySetOneFlag : Prop :=
  ∀ (i : Instr) (s : State),
    (s.q ≠ [] → exec i s = .next { s with flags := { s.flags with ovr := true } }) ∧
    (s.q = [] → s.out.oe = false → i ≠ .init → exec i s = .next { s with flags := { s.flags with ncfg := true } })

/-- The frame of every command (R97, R180, R185, R188, R156, R160, "Flags written"): it answers a next state; the lines, the trace, the
devices, the parameters, the cycle, the inputs and the read log stay; ILL stays; OVR changes only while busy, NCFG only while
not configured, DROP only by DROWD, CLAMP only by a targeted command; and while busy `Q` and `T` stay. -/
def Obligations.CommandsChangeNothingElse : Prop :=
  ∀ (i : Instr) (s : State), ∃ t, exec i s = .next t ∧
    t.cfg = s.cfg ∧ t.out = s.out ∧ t.trace = s.trace ∧ t.chain = s.chain ∧ t.cycle = s.cycle ∧ t.host = s.host ∧
    t.rst = s.rst ∧ t.reads = s.reads ∧ t.flags.ill = s.flags.ill ∧
    (s.q = [] → t.flags.ovr = s.flags.ovr) ∧
    (s.out.oe = true ∨ i = .init ∨ s.q ≠ [] → t.flags.ncfg = s.flags.ncfg) ∧
    ((∀ r p d, i ≠ .drowd r p d) → (∀ r p, i ≠ .drowdAll r p) → t.flags.drop = s.flags.drop) ∧
    ((∀ r p d, i ≠ .drowd r p d) → (∀ a v d, i ≠ .wreg a v d) → t.flags.clamp = s.flags.clamp) ∧
    (s.q ≠ [] → t.q = s.q ∧ t.t = s.t)

/-! ### Transport and addressing -/

/-- R120 to R124: where every event of a frame stands and what every bit of it is. The bit numbered 16 j + m of a frame is bit
7 - m of slot j's address for m < 8, and bit 15 - m of its data from m = 8 on. -/
def Obligations.FrameEventsBitByBit : Prop :=
  ∀ f : Frame,
    (frameEvents f).length = 48 * f.length + 2 ∧ (frameBits f).length = 16 * f.length ∧
    (frameEvents f)[0]? = some ⟨.load, false⟩ ∧ (frameEvents f)[48 * f.length + 1]? = some ⟨.load, true⟩ ∧
    (∀ k, k < 16 * f.length →
      (frameEvents f)[3 * k + 1]? = some ⟨.clk, false⟩ ∧
      (frameEvents f)[3 * k + 2]? = (frameBits f)[k]?.map (Event.mk .data) ∧
      (frameEvents f)[3 * k + 3]? = some ⟨.clk, true⟩) ∧
    (∀ j m, j < f.length → m < 16 →
      (frameBits f)[16 * j + m]? = f[j]?.map fun p =>
        if m < 8 then p.addr.getLsbD (7 - m) else p.data.getLsbD (15 - m))

/-- R131: the number of events each command queues when it is accepted. -/
def Obligations.EventCountsPerCommand : Prop :=
  ∀ (i : Instr) (s t : State), s.q = [] → (s.out.oe = true ∨ i = .init) → exec i s = .next t →
    t.q.length = match i with
      | .init => 624 * s.cfg.n + 30
      | .setb _ => 48 * s.cfg.n + 2
      | .clear => 384 * s.cfg.n + 16
      | .drowd row _ _ => if row ≤ 7 then 48 * s.cfg.n + 2 else 0
      | .drowdAll row _ => if row ≤ 7 then 48 * s.cfg.n + 2 else 0
      | .wreg _ _ _ => 48 * s.cfg.n + 2
      | .wregAll _ _ => 48 * s.cfg.n + 2

/-- R126: after the last event of a frame LOAD and CLK are 1, DATA is the last bit sent, and OE is as it was. -/
def Obligations.LineLevelsAfterFrame : Prop :=
  ∀ (f : Frame) (p : Pair) (o : Out),
    (frameEvents (f ++ [p])).foldl Out.perform o = ⟨p.data.getLsbD 0, true, true, o.oe⟩

/-- R150, R152, R153, R155: every frame has N pairs; a broadcast frame carries the pair in every slot, a targeted frame in slot
N-1-k and the no-op pair everywhere else, slot N-1-k ends in device k, and with N = 1 the two frames are the same. -/
def Obligations.FramesCarryThePairInItsSlot : Prop :=
  ∀ (n : Nat) (a d : Byte) (k : Nat), k < n →
    (broadcastFrame n a d).length = n ∧ (targetFrame n a d k).length = n ∧
    (∀ j, j < n → (broadcastFrame n a d)[j]? = some ⟨a, d⟩) ∧
    (targetFrame n a d k)[n - 1 - k]? = some ⟨a, d⟩ ∧
    (∀ j, j < n → j ≠ n - 1 - k → (targetFrame n a d k)[j]? = some ⟨0x00, 0x00⟩) ∧
    slotOf n k < n ∧ devOf n (slotOf n k) = k ∧
    (n = 1 → targetFrame n a d k = broadcastFrame n a d)

/-- R151, R157: a device index of N or more does on the lines exactly what N - 1 does; CLAMP is the only difference. -/
def Obligations.OutOfRangeDeviceIsTheLastDevice : Prop :=
  ∀ (s : State) (dev : Nat), s.q = [] → s.out.oe = true → 1 ≤ s.cfg.n → s.cfg.n ≤ dev →
    (∀ (row : Nat) (pattern : Byte), row ≤ 7 →
      ∃ t, exec (.drowd row pattern (s.cfg.n - 1)) s = .next t ∧ t.flags = s.flags ∧
        exec (.drowd row pattern dev) s = .next { t with flags := { t.flags with clamp := true } }) ∧
    (∀ addr data : Byte,
      ∃ t, exec (.wreg addr data (s.cfg.n - 1)) s = .next t ∧ t.flags = s.flags ∧
        exec (.wreg addr data dev) s = .next { t with flags := { t.flags with clamp := true } })

/-! ### The sequencer -/

/-- R128, R63, R243: in a busy cycle without reset, whatever the host does, the sequencer takes its step: at T = C - 1 the first
event is performed, with its cycle in the trace; otherwise T counts. -/
def Obligations.BusyCycleTakesOneSequencerStep : Prop :=
  ∀ (s t : State) (e : Event) (rest : List Event), step s = .next t → s.rstAsserted = false → s.q = e :: rest →
    (s.t = s.cfg.eventCycles - 1 →
      t.out = s.out.perform e ∧ t.q = rest ∧ t.t = 0 ∧ t.trace = s.trace ++ [.emit e s.cycle]) ∧
    (s.t ≠ s.cfg.eventCycles - 1 → t.out = s.out ∧ t.q = s.q ∧ t.t = s.t + 1 ∧ t.trace = s.trace)

/-- R128, R28, R27: a cycle with an empty queue performs no event: the lines and the trace stay, the devices stay while the
lines are driven, and T holds or, when a command with events is accepted, is 0. -/
def Obligations.IdleCyclePerformsNoEvent : Prop :=
  ∀ s t : State, step s = .next t → s.rstAsserted = false → s.q = [] →
    t.out = s.out ∧ t.trace = s.trace ∧ (s.out.oe = true → t.chain = s.chain) ∧
    (t.q = [] → t.t = s.t) ∧ (t.q ≠ [] → t.t = 0)

/-- R128, R68, R69, R280: a command accepted in cycle t, with no later access and no reset, is performed whole: BUSY is 1 in
cycles t+1 .. t+E*C and 0 in cycle t+E*C+1, event k is in the trace with cycle t+(k+1)*C, and the lines and the devices are
what the events in order make of them. -/
def Obligations.AcceptedCommandIsPerformedWhole : Prop :=
  ∀ (i : Instr) (s a : State), s.Inv → i.wellFormed = true → s.q = [] → (s.out.oe = true ∨ i = .init) → s.rst = [] →
    s.host = [.cmd (encode i)] → exec i s = .next a →
    (∀ j, 1 ≤ j → j ≤ a.q.length * s.cfg.eventCycles → ∃ t, runFor j s = .next t ∧ t.busy = true) ∧
    ∃ t, runFor (a.q.length * s.cfg.eventCycles + 1) s = .next t ∧ t.busy = false ∧
      t.trace = s.trace ++ emitted s.cycle s.cfg.eventCycles a.q ∧
      (t.out, t.chain) = performAll s.cfg a.q (s.out, s.chain) ∧ t.flags = a.flags ∧ t.cfg = s.cfg

/-- R275: a STATUS read in the cycle after a CMD write reads BUSY = 1 exactly when the command queued an event; an event in
that very cycle does not change what the read returns. -/
def Obligations.NoStaleBusyWindow : Prop :=
  ∀ (i : Instr) (s : State), i.wellFormed = true → s.q = [] → s.rst = [] → s.host = [.cmd (encode i), .rdStatus] →
    ∃ a t v, exec i s = .next a ∧ runFor 2 s = .next t ∧ t.reads = s.reads ++ [⟨s.cycle + 1, s.cfg.base + 0x4, v⟩] ∧
      v.getLsbD 0 = !a.q.isEmpty

/-- R127: each event writes the one output register it names; `(OE, 1)` is queued only as INIT's first event, `(OE, 0)` never;
only reset clears OE. -/
def Obligations.OnlyResetClearsOutputEnable : Prop :=
  (∀ (o : Out) (x : Bool), o.perform ⟨.data, x⟩ = { o with data := x } ∧ o.perform ⟨.clk, x⟩ = { o with clk := x } ∧
    o.perform ⟨.load, x⟩ = { o with load := x } ∧ o.perform ⟨.oe, x⟩ = { o with oe := x }) ∧
  (∀ (i : Instr) (s t : State) (k : Nat) (e : Event), s.q = [] → exec i s = .next t → t.q[k]? = some e → e.line = .oe →
    i = .init ∧ k = 0 ∧ e.level = true) ∧
  (∀ s t : State, s.Inv → step s = .next t → s.out.oe = true → t.out.oe = false → s.rstAsserted = true)

/-- R30: TRACE only grows, by at most one entry a cycle: an event performed in this cycle, or the reset of this cycle. -/
def Obligations.TraceOnlyGrows : Prop :=
  ∀ s t : State, step s = .next t →
    t.trace = s.trace ∨ (∃ e, s.q.head? = some e ∧ t.trace = s.trace ++ [.emit e s.cycle]) ∨
      (s.rstAsserted = true ∧ t.trace = s.trace ++ [.reset s.cycle])

/-- R29: the counters perform exactly the events of the list, one per event slot, in the same order, and are then done, for
every frame program of at least one frame, each of at least one pair, with INIT's setup events or without. -/
def Obligations.CountersRealiseTheEventList : Prop :=
  ∀ w : Work, w.frames ≠ [] → (∀ f ∈ w.frames, f ≠ []) →
    Counters.run w.events.length (some (Counters.start w)) = (w.events, none)

/-! ### The device chain -/

/-- R213, R214, R217: a register write, for every address, with legal parameters. -/
def Obligations.RegisterWriteByAddress : Prop :=
  ∀ (cfg : Config) (a d : Byte) (r : DevRegs), cfg.Valid →
    (a = 0x00 → r.write cfg a d = r) ∧
    (∀ k : Fin 8, a.toNat = k.val + 1 → r.write cfg a d = { r with rows := r.rows.set k (some d) }) ∧
    (a = cfg.regDecode → r.write cfg a d = { r with decode := some d }) ∧
    (a = cfg.regIntensity → r.write cfg a d = { r with intensity := some d }) ∧
    (a = cfg.regScanLimit → r.write cfg a d = { r with scanLimit := some d }) ∧
    (a = cfg.regShutdown → r.write cfg a d = { r with shutdown := some d }) ∧
    (a = cfg.regTest → r.write cfg a d = { r with test := some d }) ∧
    (8 < a.toNat → a ∉ cfg.namedRegs → r.write cfg a d = ⟨Vector.replicate 8 none, none, none, none, none, none⟩)

/-- R215, R211: at a CLK rising edge every device shifts by one, using its input's value from before the edge; the DATA line
enters device 0 and SR[15] of each device enters the next; EC counts while LOAD is 0. Element 0 of `sr` is SR[15]. -/
def Obligations.ClockEdgeShiftsEveryDevice : Prop :=
  ∀ (cfg : Config) (o : Out) (c : Chain), c.Shaped cfg.n → o.oe = true → o.clk = false →
    ∃ c', c.observe cfg o (o.perform ⟨.clk, true⟩) = c' ∧ c'.devices.length = c.devices.length ∧
      c'.ec = (if o.load = false then c.ec.map (· + 1) else c.ec) ∧
      ∀ k, k < c.devices.length → ∃ d d', c.devices[k]? = some d ∧ c'.devices[k]? = some d' ∧ d'.regs = d.regs ∧
        d'.sr.length = 16 ∧ (∀ i, i < 15 → d'.sr[i]? = d.sr[i + 1]?) ∧
        d'.sr[15]? = if k = 0 then some (some o.data) else c.devices[k - 1]?.bind fun p => p.sr[0]?

/-- R216: LOAD falling sets EC to 0; LOAD rising after exactly 16 N edges applies to each device the pair its own shift
register holds, or makes its registers ⊥ if a bit is ⊥; after any other count, ⊥ included, every register of every device is
⊥. No shift register changes. -/
def Obligations.LoadEdgesCommit : Prop :=
  ∀ (cfg : Config) (o : Out) (c : Chain), o.oe = true →
    (o.load = true → c.observe cfg o (o.perform ⟨.load, false⟩) = { c with ec := some 0 }) ∧
    (o.load = false → c.ec = some (16 * cfg.n) →
      c.observe cfg o (o.perform ⟨.load, true⟩) = { c with devices := c.devices.map fun d =>
        { d with regs := match srPair d.sr with
            | some p => d.regs.write cfg p.addr p.data
            | none => ⟨Vector.replicate 8 none, none, none, none, none, none⟩ } }) ∧
    (o.load = false → c.ec ≠ some (16 * cfg.n) →
      c.observe cfg o (o.perform ⟨.load, true⟩) = { c with devices := c.devices.map fun d =>
        { d with regs := ⟨Vector.replicate 8 none, none, none, none, none, none⟩ } })

/-- R216, R121: a shift register of 16 bits holds a pair exactly when none of its bits is ⊥, and the pair's bytes are SR[15:8]
and SR[7:0]. -/
def Obligations.ShiftRegisterHoldsThePairSent : Prop :=
  (∀ p : Pair, srPair ((pairBits p).map some) = some p) ∧
  (∀ sr : List TriBit, sr.length = 16 → (none ∈ sr → srPair sr = none) ∧ (none ∉ sr → ∃ p, sr = (pairBits p).map some))

/-- R219, R271: in every cycle with OE = 0 at its start or its end the chain is all ⊥. That both ends count is the model's reading
(log 5, DEDUCED). -/
def Obligations.UndrivenLinesMakeEverythingUnknown : Prop :=
  ∀ s t : State, step s = .next t → s.out.oe = false ∨ t.out.oe = false → t.chain = Chain.unknown s.cfg.n

/-- R210: while the lines are driven, a cycle that changes no line level changes nothing in the chain, an event that writes
the present level included. -/
def Obligations.NoLevelChangeNoTransition : Prop :=
  ∀ s t : State, step s = .next t → s.out.oe = true → t.out = s.out → t.chain = s.chain

/-- R221, R150: one frame, from any chain with LOAD driven high, whatever the shift registers and EC hold, applies the pair of
slot N-1-k to device k. -/
def Obligations.FrameWritesEachDeviceItsSlot : Prop :=
  ∀ (cfg : Config) (f : Frame) (o : Out) (c : Chain), c.Shaped cfg.n → f.length = cfg.n → o.oe = true → o.load = true →
    ∀ k, k < cfg.n → ∃ p d d', f[cfg.n - 1 - k]? = some p ∧ c.devices[k]? = some d ∧
      (performAll cfg (frameEvents f) (o, c)).2.devices[k]? = some d' ∧ d'.regs = d.regs.write cfg p.addr p.data

/-! ### What a command does to the displays, through the machine's own steps -/

/-- R184, R180: an INIT written to an idle machine, configured or not, whatever the devices held, leaves every device with every
register known, at the values of R182, when BUSY falls. -/
def Obligations.InitMakesEveryDeviceKnown : Prop :=
  ∀ s : State, s.Inv → s.q = [] → s.rst = [] → s.host = [.cmd 0x10000000] →
    ∃ t, runFor ((624 * s.cfg.n + 30) * s.cfg.eventCycles + 1) s = .next t ∧ t.busy = false ∧ t.out.oe = true ∧
      t.flags = s.flags ∧ t.chain.devices.length = s.cfg.n ∧
      ∀ d ∈ t.chain.devices,
        d.regs = ⟨Vector.replicate 8 (some 0x00), some 0x00, some 0x0F, some 0x07, some 0x01, some 0x00⟩

/-- R185: SETB makes the intensity register of every device `level & 0x0F` and changes no other register. -/
def Obligations.SetbSetsEveryIntensity : Prop :=
  ∀ (s : State) (level : Byte), s.ReadyFor (.setb level) →
    ∃ t, runFor ((48 * s.cfg.n + 2) * s.cfg.eventCycles + 1) s = .next t ∧ t.busy = false ∧ t.flags = s.flags ∧
      t.chain.devices.map (·.regs) = s.chain.devices.map fun d => { d.regs with intensity := some (level &&& 0x0F) }

/-- R188: CLEAR makes ROW[0..7] of every device 0x00 and changes no other register. -/
def Obligations.ClearZeroesEveryRow : Prop :=
  ∀ s : State, s.ReadyFor .clear →
    ∃ t, runFor ((384 * s.cfg.n + 16) * s.cfg.eventCycles + 1) s = .next t ∧ t.busy = false ∧ t.flags = s.flags ∧
      t.chain.devices.map (·.regs) = s.chain.devices.map fun d => { d.regs with rows := Vector.replicate 8 (some 0x00) }

/-- R156, R157: DROWD with a row 0..7 sets ROW[row] of the one device, clamped to N - 1, and leaves every other device and every
other register unchanged. -/
def Obligations.DrowdSetsOneRowOfOneDevice : Prop :=
  ∀ (s : State) (row : Nat) (hrow : row < 8) (pattern : Byte) (dev : Nat), dev < 256 → s.ReadyFor (.drowd row pattern dev) →
    ∃ t, runFor ((48 * s.cfg.n + 2) * s.cfg.eventCycles + 1) s = .next t ∧ t.busy = false ∧
      t.flags = (if dev < s.cfg.n then s.flags else { s.flags with clamp := true }) ∧
      t.chain.devices.map (·.regs) = s.chain.devices.mapIdx fun k d =>
        if k = min dev (s.cfg.n - 1) then { d.regs with rows := d.regs.rows.set row (some pattern) hrow } else d.regs

/-- R156, R157: DROWD.ALL with a row 0..7 sets ROW[row] of every device and no other register. -/
def Obligations.DrowdAllSetsOneRowOfEveryDevice : Prop :=
  ∀ (s : State) (row : Nat) (hrow : row < 8) (pattern : Byte), s.ReadyFor (.drowdAll row pattern) →
    ∃ t, runFor ((48 * s.cfg.n + 2) * s.cfg.eventCycles + 1) s = .next t ∧ t.busy = false ∧ t.flags = s.flags ∧
      t.chain.devices.map (·.regs) = s.chain.devices.map fun d =>
        { d.regs with rows := d.regs.rows.set row (some pattern) hrow }

/-- R156, R157: a row above 7, encoded in either form, emits no event: nothing but DROP changes, and BUSY stays 0. -/
def Obligations.DroppedRowEmitsNothing : Prop :=
  ∀ (s : State) (row : Nat) (pattern : Byte) (dev : Nat), 7 < row → row < 256 → dev < 256 →
    s.ReadyFor (.drowd row pattern dev) ∨ s.ReadyFor (.drowdAll row pattern) →
    ∃ t, step s = .next t ∧ t.busy = false ∧ t.flags = { s.flags with drop := true } ∧ t.trace = s.trace ∧
      t.out = s.out ∧ t.chain = s.chain

/-- R160: WREG applies (addr, data) to the one device, clamped to N - 1, by R214, undefined addresses included, and leaves the
registers of every other device unchanged. -/
def Obligations.WregWritesOneDevice : Prop :=
  ∀ (s : State) (addr data : Byte) (dev : Nat), dev < 256 → s.ReadyFor (.wreg addr data dev) →
    ∃ t, runFor ((48 * s.cfg.n + 2) * s.cfg.eventCycles + 1) s = .next t ∧ t.busy = false ∧
      t.flags = (if dev < s.cfg.n then s.flags else { s.flags with clamp := true }) ∧
      t.chain.devices.map (·.regs) = s.chain.devices.mapIdx fun k d =>
        if k = min dev (s.cfg.n - 1) then d.regs.write s.cfg addr data else d.regs

/-- R160: WREG.ALL applies (addr, data) to every device by R214. -/
def Obligations.WregAllWritesEveryDevice : Prop :=
  ∀ (s : State) (addr data : Byte), s.ReadyFor (.wregAll addr data) →
    ∃ t, runFor ((48 * s.cfg.n + 2) * s.cfg.eventCycles + 1) s = .next t ∧ t.busy = false ∧ t.flags = s.flags ∧
      t.chain.devices.map (·.regs) = s.chain.devices.map fun d => d.regs.write s.cfg addr data
end

