-- ==== Sys2Proof/Laws/Chain.lean ====
section
/-! SUPPORT. The chain keeps its shape, and what one line transition does to it (44_device_chain.md R210 to R219). -/

namespace Sys2Proof.Machine

/-! ### Shape -/

@[simp] theorem shiftDevices_length (din : TriBit) (ds : List Device) : (shiftDevices din ds).length = ds.length := by
  induction ds generalizing din with
  | nil => rfl
  | cons d ds ih => simp [shiftDevices, ih]

theorem shiftDevices_sr_length {din : TriBit} {ds : List Device} (h : ∀ d ∈ ds, d.sr.length = 16) :
    ∀ d ∈ shiftDevices din ds, d.sr.length = 16 := by
  induction ds generalizing din with
  | nil => simp [shiftDevices]
  | cons d ds ih =>
    intro d' hd'
    rcases List.mem_cons.1 hd' with rfl | hd'
    · simp [Device.shiftIn, h d (by simp)]
    · exact ih (fun x hx => h x (by simp [hx])) d' hd'

@[simp] theorem Device.commit_sr (cfg : Config) (d : Device) : (d.commit cfg).sr = d.sr := by
  unfold Device.commit; split <;> rfl

@[simp] theorem Device.violate_sr (d : Device) : d.violate.sr = d.sr := rfl

@[simp] theorem Device.violate_regs (d : Device) : d.violate.regs = DevRegs.unknown := rfl

theorem Chain.unknown_shaped (n : Nat) : (Chain.unknown n).Shaped n := by
  refine ⟨by simp [Chain.unknown], fun d hd => ?_⟩
  rw [Chain.unknown, List.mem_replicate] at hd
  simp [hd.2, Device.unknown]

/-- No line transition changes the number of devices or the width of a shift register (R212). -/
theorem Chain.observe_shaped {cfg : Config} {before after : Out} {c : Chain} (h : c.Shaped cfg.n) :
    (c.observe cfg before after).Shaped cfg.n := by
  unfold Chain.observe
  split
  · split
    · exact ⟨by simpa [Chain.clkRise] using h.1, shiftDevices_sr_length h.2⟩
    · split
      · exact h
      · split
        · unfold Chain.loadRise
          split
          · exact ⟨by simpa using h.1, by simpa using h.2⟩
          · exact ⟨by simpa using h.1, by simpa using h.2⟩
        · exact h
  · exact Chain.unknown_shaped cfg.n

/-! ### Transitions -/

/-- While the lines are undriven on either side of the cycle, everything is ⊥ (R219). -/
theorem Chain.observe_undriven {cfg : Config} {before after : Out} {c : Chain} (h : before.oe = false ∨ after.oe = false) :
    c.observe cfg before after = Chain.unknown cfg.n := by
  rcases h with h | h <;> simp [Chain.observe, h]

/-- Driven lines that keep their levels do nothing (R210). -/
theorem Chain.observe_same {cfg : Config} {o : Out} {c : Chain} (h : o.oe = true) : c.observe cfg o o = c := by
  cases hc : o.clk <;> cases hl : o.load <;> simp [Chain.observe, h, rises, falls, Out.line, hc, hl]

/-- A DATA write moves nothing (R210, R215: only CLK and LOAD edges act). -/
theorem Chain.observe_data {cfg : Config} {o : Out} {c : Chain} (h : o.oe = true) (x : Bool) :
    c.observe cfg o (o.perform ⟨.data, x⟩) = c := by
  cases hc : o.clk <;> cases hl : o.load <;> simp [Chain.observe, h, rises, falls, Out.line, Out.perform, hc, hl]

/-- A CLK write of 0 moves nothing (R215: a falling CLK edge does nothing). -/
theorem Chain.observe_clkLow {cfg : Config} {o : Out} {c : Chain} (h : o.oe = true) :
    c.observe cfg o (o.perform ⟨.clk, false⟩) = c := by
  cases hc : o.clk <;> cases hl : o.load <;> simp [Chain.observe, h, rises, falls, Out.line, Out.perform, hc, hl]

/-- CLK from 0 to 1 shifts every device (R215). -/
theorem Chain.observe_clkRise {cfg : Config} {o : Out} {c : Chain} (h : o.oe = true) (hc : o.clk = false) :
    c.observe cfg o (o.perform ⟨.clk, true⟩) = c.clkRise (o.perform ⟨.clk, true⟩) := by
  simp [Chain.observe, h, rises, Out.line, Out.perform, hc]

/-- LOAD from 1 to 0 starts the edge count (R216). -/
theorem Chain.observe_loadFall {cfg : Config} {o : Out} {c : Chain} (h : o.oe = true) (hl : o.load = true) :
    c.observe cfg o (o.perform ⟨.load, false⟩) = c.loadFall := by
  cases hc : o.clk <;> simp [Chain.observe, h, rises, falls, Out.line, Out.perform, hc, hl]

/-- LOAD from 0 to 1 commits (R216). -/
theorem Chain.observe_loadRise {cfg : Config} {o : Out} {c : Chain} (h : o.oe = true) (hl : o.load = false) :
    c.observe cfg o (o.perform ⟨.load, true⟩) = c.loadRise cfg := by
  cases hc : o.clk <;> simp [Chain.observe, h, rises, falls, Out.line, Out.perform, hc, hl]

/-- Events performed one list after another (R68). -/
theorem performAll_append (cfg : Config) (es fs : List Event) (oc : Out × Chain) :
    performAll cfg (es ++ fs) oc = performAll cfg fs (performAll cfg es oc) := by
  simp [performAll, List.foldl_append]

@[simp] theorem performAll_nil (cfg : Config) (oc : Out × Chain) : performAll cfg [] oc = oc := rfl

@[simp] theorem performAll_cons (cfg : Config) (e : Event) (es : List Event) (oc : Out × Chain) :
    performAll cfg (e :: es) oc = performAll cfg es (performOn cfg oc e) := rfl

/-- The output registers do not depend on the chain (R130). -/
theorem performAll_fst (cfg : Config) (es : List Event) (oc : Out × Chain) :
    (performAll cfg es oc).1 = es.foldl Out.perform oc.1 := by
  induction es generalizing oc with
  | nil => rfl
  | cons e es ih => exact ih _

/-- Performing events keeps the chain's shape (R212). -/
theorem performAll_shaped {cfg : Config} {es : List Event} {oc : Out × Chain} (h : oc.2.Shaped cfg.n) :
    (performAll cfg es oc).2.Shaped cfg.n := by
  induction es generalizing oc with
  | nil => exact h
  | cons e es ih => exact ih (Chain.observe_shaped h)


end Sys2Proof.Machine
end

