-- ==== Sys2Proof/Laws/Decode.lean ====
section
/-! SUPPORT. Packing and unpacking the fields of a command word, and the byte lanes (30_encoding.md R90; 20_memory.md R64). -/

namespace Sys2Proof

section Fields

variable (op : BitVec 4) (bc : BitVec 1) (rsv : BitVec 3) (dev a d : Byte)

/-- Every bit of a packed word, by the field it lies in (R90). -/
theorem getLsbD_packWord (i : Nat) :
    (packWord op bc rsv dev a d).getLsbD i =
      if i < 8 then d.getLsbD i
      else if i < 16 then a.getLsbD (i - 8)
      else if i < 24 then dev.getLsbD (i - 16)
      else if i < 27 then rsv.getLsbD (i - 24)
      else if i < 28 then bc.getLsbD (i - 27)
      else op.getLsbD (i - 28) := by
  have h : packWord op bc rsv dev a d =
      ((op ++ (bc ++ (rsv ++ (dev ++ (a ++ d)))) : BitVec (4 + (1 + (3 + (8 + (8 + 8))))))) := rfl
  rw [h]
  simp only [BitVec.getLsbD_append]
  repeat' split
  all_goals first | omega | rfl

@[simp] theorem fieldOp_packWord : fieldOp (packWord op bc rsv dev a d) = op := by
  refine BitVec.eq_of_getLsbD_eq fun i hi => ?_
  simp only [fieldOp, BitVec.getLsbD_extractLsb', getLsbD_packWord, hi, decide_true, Bool.true_and]
  repeat' split
  all_goals first | omega | (congr 1; omega)

@[simp] theorem fieldBc_packWord : fieldBc (packWord op bc rsv dev a d) = bc := by
  refine BitVec.eq_of_getLsbD_eq fun i hi => ?_
  simp only [fieldBc, BitVec.getLsbD_extractLsb', getLsbD_packWord, hi, decide_true, Bool.true_and]
  repeat' split
  all_goals first | omega | (congr 1; omega)

@[simp] theorem fieldRsv_packWord : fieldRsv (packWord op bc rsv dev a d) = rsv := by
  refine BitVec.eq_of_getLsbD_eq fun i hi => ?_
  simp only [fieldRsv, BitVec.getLsbD_extractLsb', getLsbD_packWord, hi, decide_true, Bool.true_and]
  repeat' split
  all_goals first | omega | (congr 1; omega)

@[simp] theorem fieldDev_packWord : fieldDev (packWord op bc rsv dev a d) = dev := by
  refine BitVec.eq_of_getLsbD_eq fun i hi => ?_
  simp only [fieldDev, BitVec.getLsbD_extractLsb', getLsbD_packWord, hi, decide_true, Bool.true_and]
  repeat' split
  all_goals first | omega | (congr 1; omega)

@[simp] theorem fieldA_packWord : fieldA (packWord op bc rsv dev a d) = a := by
  refine BitVec.eq_of_getLsbD_eq fun i hi => ?_
  simp only [fieldA, BitVec.getLsbD_extractLsb', getLsbD_packWord, hi, decide_true, Bool.true_and]
  repeat' split
  all_goals first | omega | (congr 1; omega)

@[simp] theorem fieldD_packWord : fieldD (packWord op bc rsv dev a d) = d := by
  refine BitVec.eq_of_getLsbD_eq fun i hi => ?_
  simp only [fieldD, BitVec.getLsbD_extractLsb', getLsbD_packWord, hi, decide_true, Bool.true_and]
  repeat' split
  all_goals first | omega | (congr 1; omega)

/-- A word is its six fields (R90: there is exactly one format). -/
theorem packWord_fields (w : Word) :
    packWord (fieldOp w) (fieldBc w) (fieldRsv w) (fieldDev w) (fieldA w) (fieldD w) = w := by
  refine BitVec.eq_of_getLsbD_eq fun i hi => ?_
  simp only [fieldOp, fieldBc, fieldRsv, fieldDev, fieldA, fieldD, getLsbD_packWord, BitVec.getLsbD_extractLsb']
  repeat' split
  all_goals
    rw [decide_eq_true (by omega), Bool.true_and]
    congr 1
    omega

/-- SETB's unused bits 27:8 are zero exactly when the fields above D are (R93). -/
theorem setbBits_packWord : (packWord op 0 0 0 0 d).extractLsb' 8 20 = 0 := by
  refine BitVec.eq_of_getLsbD_eq fun i hi => ?_
  simp only [BitVec.getLsbD_extractLsb', getLsbD_packWord, hi, decide_true, Bool.true_and]
  repeat' split
  all_goals first | omega | simp

end Fields

/-- The lanes of a word make that word again (R64). -/
@[simp] theorem wordOfLanes_wordLanes (w : Word) : wordOfLanes (wordLanes w) = some w := by
  have h : wordOfLanes (wordLanes w) = some ((w.extractLsb' 24 8 ++ (w.extractLsb' 16 8 ++ (w.extractLsb' 8 8 ++ w.extractLsb' 0 8)) :
      BitVec (8 + (8 + (8 + 8))))) := rfl
  rw [h]
  refine congrArg some (BitVec.eq_of_getLsbD_eq fun i hi => ?_)
  simp only [BitVec.getLsbD_append, BitVec.getLsbD_extractLsb']
  repeat' split
  all_goals
    rw [decide_eq_true (by omega), Bool.true_and]
    congr 1
    omega

@[simp] theorem wordLanes_length (w : Word) : (wordLanes w).length = 4 := rfl

/-- Only four bytes make a word. -/
theorem length_of_wordOfLanes {bytes : List Byte} {w : Word} (h : wordOfLanes bytes = some w) : bytes.length = 4 := by
  unfold wordOfLanes at h
  split at h
  · rfl
  · simp at h

/-- The decoder on a word's lanes is the decoder on the word. -/
@[simp] theorem decodeBytes_wordLanes (w : Word) : decodeBytes (wordLanes w) = decode w := by
  simp [decodeBytes]

/-- The decoder refuses a word only as `Illegal(w)`, and only when it is not legal (R94). -/
theorem decode_error {w : Word} {e : DecodeError} (h : decode w = .error e) : legal w = false ∧ e = .illegal w := by
  unfold decode at h
  split at h
  · repeat' split at h
    all_goals simp at h
  · refine ⟨by simpa using ‹¬ legal w = true›, ?_⟩
    simpa using h.symm

end Sys2Proof
end

