-- ==== Sys2Proof/Laws/Flags.lean ====
section
/-! SUPPORT. What setting and clearing do to one flag, said once (10_state.md R23, R24). -/

namespace Sys2Proof.Machine

/-- Setting a flag sets that one and keeps the others (R24). -/
@[simp] theorem Flags.get_set (f : Flags) (a b : Flag) : (f.set a).get b = (f.get b || decide (a = b)) := by
  cases a <;> cases b <;> simp [Flags.set, Flags.get]

/-- Setting several flags sets those and keeps the others. -/
@[simp] theorem Flags.get_setAll (f : Flags) (as : List Flag) (b : Flag) :
    (f.setAll as).get b = (f.get b || decide (b ∈ as)) := by
  induction as generalizing f with
  | nil => simp [Flags.setAll]
  | cons a as ih =>
    have h : f.setAll (a :: as) = (f.set a).setAll as := rfl
    rw [h, ih, Flags.get_set]
    by_cases hab : a = b
    · simp [hab]
    · simp [hab, Ne.symm hab]

@[simp] theorem Flags.setAll_nil (f : Flags) : f.setAll [] = f := rfl

@[simp] theorem Flags.setAll_singleton (f : Flags) (a : Flag) : f.setAll [a] = f.set a := rfl

/-- A STATUS write clears the flags whose bits are 1 in it and keeps the others (R23). -/
@[simp] theorem Flags.get_writeOneToClear (f : Flags) (v : Word) (b : Flag) :
    (f.writeOneToClear v).get b = (f.get b && !v.getLsbD b.statusBit) := by
  cases b <;> rfl

/-- Flags with the same five values are the same. -/
theorem Flags.ext_get {f g : Flags} (h : ∀ b, f.get b = g.get b) : f = g := by
  have h1 := h .ovr; have h2 := h .ill; have h3 := h .ncfg; have h4 := h .drop; have h5 := h .clamp
  cases f; cases g; simp_all [Flags.get]

@[simp] theorem Flags.get_zero (b : Flag) : Flags.zero.get b = false := by cases b <;> rfl

end Sys2Proof.Machine
end

