-- ==== Sys2Proof/Laws/Operands.lean ====
section
/-! SUPPORT. Every frame constructor yields N pairs, and a resolved target is a device of the chain (41_addressing.md R151 to
R155). -/

namespace Sys2Proof.Machine

@[simp] theorem broadcastFrame_length (n : Nat) (a d : Byte) : (broadcastFrame n a d).length = n := by
  simp [broadcastFrame]

@[simp] theorem targetFrame_length (n : Nat) (a d : Byte) (k : Nat) : (targetFrame n a d k).length = n := by
  simp [targetFrame]

@[simp] theorem frameFor_length (n : Nat) (a d : Byte) (t : Target) : (frameFor n a d t).length = n := by
  cases t <;> simp [frameFor]

/-- The pair of each slot of a targeted frame. -/
theorem targetFrame_getElem (n : Nat) (a d : Byte) (k j : Nat) (h : j < (targetFrame n a d k).length) :
    (targetFrame n a d k)[j] = if j = slotOf n k then ⟨a, d⟩ else nopPair := by
  simp [targetFrame]

/-- The pair of each slot of a broadcast frame. -/
theorem broadcastFrame_getElem (n : Nat) (a d : Byte) (j : Nat) (h : j < (broadcastFrame n a d).length) :
    (broadcastFrame n a d)[j] = ⟨a, d⟩ := by
  simp [broadcastFrame]

/-- The clamp in one expression: `min(d, N - 1)`. -/
theorem resolve_dev (n d : Nat) : resolve n (.dev d) = .dev (min d (n - 1)) := by
  unfold resolve
  by_cases h : d ≤ n - 1
  · simp [h]
  · simp [h, Nat.min_eq_right (by omega : n - 1 ≤ d)]

/-- Only a device index of N or more sets a flag. -/
theorem mem_resolveFlags {n : Nat} {t : Target} {f : Flag} (h : f ∈ resolveFlags n t) : f = .clamp := by
  cases t with
  | all => simp [resolveFlags] at h
  | dev d =>
    unfold resolveFlags at h
    by_cases hd : d ≤ n - 1 <;> simp [hd] at h
    exact h

/-- An index within the chain sets no flag. -/
theorem resolveFlags_inRange {n d : Nat} (h : d < n) : resolveFlags n (.dev d) = [] := by
  simp [resolveFlags, (by omega : d ≤ n - 1)]

/-- An index of N or more sets CLAMP. -/
theorem resolveFlags_clamped {n d : Nat} (hn : 1 ≤ n) (h : n ≤ d) : resolveFlags n (.dev d) = [.clamp] := by
  have hd : ¬ d ≤ n - 1 := by omega
  simp only [resolveFlags, hd, if_false]

end Sys2Proof.Machine
end

