-- ==== Sys2Proof/Laws/State.lean ====
section
/-! SUPPORT. One lemma per field and per update of the state, so that no later proof unfolds a record update. -/

namespace Sys2Proof.Machine

/-! ### `raise` -/

@[simp] theorem State.raise_cfg (s : State) (fs : List Flag) : (s.raise fs).cfg = s.cfg := rfl
@[simp] theorem State.raise_out (s : State) (fs : List Flag) : (s.raise fs).out = s.out := rfl
@[simp] theorem State.raise_q (s : State) (fs : List Flag) : (s.raise fs).q = s.q := rfl
@[simp] theorem State.raise_t (s : State) (fs : List Flag) : (s.raise fs).t = s.t := rfl
@[simp] theorem State.raise_flags (s : State) (fs : List Flag) : (s.raise fs).flags = s.flags.setAll fs := rfl
@[simp] theorem State.raise_trace (s : State) (fs : List Flag) : (s.raise fs).trace = s.trace := rfl
@[simp] theorem State.raise_chain (s : State) (fs : List Flag) : (s.raise fs).chain = s.chain := rfl
@[simp] theorem State.raise_cycle (s : State) (fs : List Flag) : (s.raise fs).cycle = s.cycle := rfl
@[simp] theorem State.raise_host (s : State) (fs : List Flag) : (s.raise fs).host = s.host := rfl
@[simp] theorem State.raise_rst (s : State) (fs : List Flag) : (s.raise fs).rst = s.rst := rfl
@[simp] theorem State.raise_reads (s : State) (fs : List Flag) : (s.raise fs).reads = s.reads := rfl

/-! ### `discardWith` -/

@[simp] theorem State.discardWith_cfg (s : State) (f : Flag) : (s.discardWith f).cfg = s.cfg := rfl
@[simp] theorem State.discardWith_out (s : State) (f : Flag) : (s.discardWith f).out = s.out := rfl
@[simp] theorem State.discardWith_q (s : State) (f : Flag) : (s.discardWith f).q = s.q := rfl
@[simp] theorem State.discardWith_t (s : State) (f : Flag) : (s.discardWith f).t = s.t := rfl
@[simp] theorem State.discardWith_flags (s : State) (f : Flag) : (s.discardWith f).flags = s.flags.set f := rfl
@[simp] theorem State.discardWith_trace (s : State) (f : Flag) : (s.discardWith f).trace = s.trace := rfl
@[simp] theorem State.discardWith_chain (s : State) (f : Flag) : (s.discardWith f).chain = s.chain := rfl
@[simp] theorem State.discardWith_cycle (s : State) (f : Flag) : (s.discardWith f).cycle = s.cycle := rfl
@[simp] theorem State.discardWith_host (s : State) (f : Flag) : (s.discardWith f).host = s.host := rfl
@[simp] theorem State.discardWith_rst (s : State) (f : Flag) : (s.discardWith f).rst = s.rst := rfl
@[simp] theorem State.discardWith_reads (s : State) (f : Flag) : (s.discardWith f).reads = s.reads := rfl

/-! ### `returnRead` -/

@[simp] theorem State.returnRead_cfg (s : State) (a : Nat) (v : Word) : (s.returnRead a v).cfg = s.cfg := rfl
@[simp] theorem State.returnRead_out (s : State) (a : Nat) (v : Word) : (s.returnRead a v).out = s.out := rfl
@[simp] theorem State.returnRead_q (s : State) (a : Nat) (v : Word) : (s.returnRead a v).q = s.q := rfl
@[simp] theorem State.returnRead_t (s : State) (a : Nat) (v : Word) : (s.returnRead a v).t = s.t := rfl
@[simp] theorem State.returnRead_flags (s : State) (a : Nat) (v : Word) : (s.returnRead a v).flags = s.flags := rfl
@[simp] theorem State.returnRead_trace (s : State) (a : Nat) (v : Word) : (s.returnRead a v).trace = s.trace := rfl
@[simp] theorem State.returnRead_chain (s : State) (a : Nat) (v : Word) : (s.returnRead a v).chain = s.chain := rfl
@[simp] theorem State.returnRead_cycle (s : State) (a : Nat) (v : Word) : (s.returnRead a v).cycle = s.cycle := rfl
@[simp] theorem State.returnRead_host (s : State) (a : Nat) (v : Word) : (s.returnRead a v).host = s.host := rfl
@[simp] theorem State.returnRead_rst (s : State) (a : Nat) (v : Word) : (s.returnRead a v).rst = s.rst := rfl
@[simp] theorem State.returnRead_reads (s : State) (a : Nat) (v : Word) : (s.returnRead a v).reads = s.reads ++ [⟨s.cycle, a, v⟩] := rfl

/-! ### `takeInputs` -/

@[simp] theorem State.takeInputs_cfg (s : State) (h : List HostOp) : (s.takeInputs h).cfg = s.cfg := rfl
@[simp] theorem State.takeInputs_out (s : State) (h : List HostOp) : (s.takeInputs h).out = s.out := rfl
@[simp] theorem State.takeInputs_q (s : State) (h : List HostOp) : (s.takeInputs h).q = s.q := rfl
@[simp] theorem State.takeInputs_t (s : State) (h : List HostOp) : (s.takeInputs h).t = s.t := rfl
@[simp] theorem State.takeInputs_flags (s : State) (h : List HostOp) : (s.takeInputs h).flags = s.flags := rfl
@[simp] theorem State.takeInputs_trace (s : State) (h : List HostOp) : (s.takeInputs h).trace = s.trace := rfl
@[simp] theorem State.takeInputs_chain (s : State) (h : List HostOp) : (s.takeInputs h).chain = s.chain := rfl
@[simp] theorem State.takeInputs_cycle (s : State) (h : List HostOp) : (s.takeInputs h).cycle = s.cycle := rfl
@[simp] theorem State.takeInputs_host (s : State) (h : List HostOp) : (s.takeInputs h).host = h := rfl
@[simp] theorem State.takeInputs_rst (s : State) (h : List HostOp) : (s.takeInputs h).rst = s.rst.tail := rfl
@[simp] theorem State.takeInputs_reads (s : State) (h : List HostOp) : (s.takeInputs h).reads = s.reads := rfl

/-! ### `resetCycle` -/

@[simp] theorem State.resetCycle_cfg (s : State) : (s.resetCycle).cfg = s.cfg := rfl
@[simp] theorem State.resetCycle_out (s : State) : (s.resetCycle).out = Out.atReset := rfl
@[simp] theorem State.resetCycle_q (s : State) : (s.resetCycle).q = [] := rfl
@[simp] theorem State.resetCycle_t (s : State) : (s.resetCycle).t = 0 := rfl
@[simp] theorem State.resetCycle_flags (s : State) : (s.resetCycle).flags = Flags.zero := rfl
@[simp] theorem State.resetCycle_trace (s : State) : (s.resetCycle).trace = s.trace ++ [.reset s.cycle] := rfl
@[simp] theorem State.resetCycle_chain (s : State) : (s.resetCycle).chain = s.chain.observe s.cfg s.out Out.atReset := rfl
@[simp] theorem State.resetCycle_cycle (s : State) : (s.resetCycle).cycle = s.cycle + 1 := rfl
@[simp] theorem State.resetCycle_host (s : State) : (s.resetCycle).host = s.host := rfl
@[simp] theorem State.resetCycle_rst (s : State) : (s.resetCycle).rst = s.rst := rfl
@[simp] theorem State.resetCycle_reads (s : State) : (s.resetCycle).reads = s.reads := rfl

/-! ### `withFetchWord` -/

@[simp] theorem State.withFetchWord_cfg (s : State) (nbits w : Nat) : (s.withFetchWord nbits w).cfg = s.cfg := rfl
@[simp] theorem State.withFetchWord_out (s : State) (nbits w : Nat) : (s.withFetchWord nbits w).out = s.out := rfl
@[simp] theorem State.withFetchWord_q (s : State) (nbits w : Nat) : (s.withFetchWord nbits w).q = s.q := rfl
@[simp] theorem State.withFetchWord_t (s : State) (nbits w : Nat) : (s.withFetchWord nbits w).t = s.t := rfl
@[simp] theorem State.withFetchWord_flags (s : State) (nbits w : Nat) : (s.withFetchWord nbits w).flags = s.flags := rfl
@[simp] theorem State.withFetchWord_trace (s : State) (nbits w : Nat) : (s.withFetchWord nbits w).trace = s.trace := rfl
@[simp] theorem State.withFetchWord_chain (s : State) (nbits w : Nat) : (s.withFetchWord nbits w).chain = s.chain := rfl
@[simp] theorem State.withFetchWord_cycle (s : State) (nbits w : Nat) : (s.withFetchWord nbits w).cycle = s.cycle := rfl
@[simp] theorem State.withFetchWord_host (s : State) (nbits w : Nat) : (s.withFetchWord nbits w).host = .cmd (tableWord nbits w) :: s.host := rfl
@[simp] theorem State.withFetchWord_rst (s : State) (nbits w : Nat) : (s.withFetchWord nbits w).rst = false :: s.rst := rfl
@[simp] theorem State.withFetchWord_reads (s : State) (nbits w : Nat) : (s.withFetchWord nbits w).reads = s.reads := rfl

/-! ### `beginWork`: only the flags, and `Q` and `T` -/

@[simp] theorem State.beginWork_cfg (s : State) (w : Work) : (s.beginWork w).cfg = s.cfg := by
  unfold State.beginWork; split <;> rfl
@[simp] theorem State.beginWork_out (s : State) (w : Work) : (s.beginWork w).out = s.out := by
  unfold State.beginWork; split <;> rfl
@[simp] theorem State.beginWork_trace (s : State) (w : Work) : (s.beginWork w).trace = s.trace := by
  unfold State.beginWork; split <;> rfl
@[simp] theorem State.beginWork_chain (s : State) (w : Work) : (s.beginWork w).chain = s.chain := by
  unfold State.beginWork; split <;> rfl
@[simp] theorem State.beginWork_cycle (s : State) (w : Work) : (s.beginWork w).cycle = s.cycle := by
  unfold State.beginWork; split <;> rfl
@[simp] theorem State.beginWork_host (s : State) (w : Work) : (s.beginWork w).host = s.host := by
  unfold State.beginWork; split <;> rfl
@[simp] theorem State.beginWork_rst (s : State) (w : Work) : (s.beginWork w).rst = s.rst := by
  unfold State.beginWork; split <;> rfl
@[simp] theorem State.beginWork_reads (s : State) (w : Work) : (s.beginWork w).reads = s.reads := by
  unfold State.beginWork; split <;> rfl
@[simp] theorem State.beginWork_flags (s : State) (w : Work) : (s.beginWork w).flags = s.flags.setAll w.flags := by
  unfold State.beginWork; split <;> rfl

/-- With no event to perform, `Q` and `T` stay (R97). -/
theorem State.beginWork_of_isEmpty (s : State) (w : Work) (h : w.events.isEmpty = true) : s.beginWork w = s.raise w.flags := by
  simp [State.beginWork, h]

/-- With events to perform, they become `Q`, and `T` becomes 0 (R97). -/
theorem State.beginWork_of_events (s : State) (w : Work) (h : w.events.isEmpty = false) :
    s.beginWork w = { s with flags := s.flags.setAll w.flags, q := w.events, t := 0 } := by
  simp [State.beginWork, h, State.raise]

/-! ### `sequence`: what a sequencer step leaves alone -/

@[simp] theorem State.sequence_cfg (s : State) : s.sequence.cfg = s.cfg := by
  unfold State.sequence; split
  · rfl
  · split <;> rfl
@[simp] theorem State.sequence_flags (s : State) : s.sequence.flags = s.flags := by
  unfold State.sequence; split
  · rfl
  · split <;> rfl
@[simp] theorem State.sequence_chain (s : State) : s.sequence.chain = s.chain := by
  unfold State.sequence; split
  · rfl
  · split <;> rfl
@[simp] theorem State.sequence_cycle (s : State) : s.sequence.cycle = s.cycle := by
  unfold State.sequence; split
  · rfl
  · split <;> rfl
@[simp] theorem State.sequence_host (s : State) : s.sequence.host = s.host := by
  unfold State.sequence; split
  · rfl
  · split <;> rfl
@[simp] theorem State.sequence_rst (s : State) : s.sequence.rst = s.rst := by
  unfold State.sequence; split
  · rfl
  · split <;> rfl
@[simp] theorem State.sequence_reads (s : State) : s.sequence.reads = s.reads := by
  unfold State.sequence; split
  · rfl
  · split <;> rfl

/-! ### `passCycle`: what passes in a cycle beside the access -/

@[simp] theorem State.passCycle_chain (s a : State) : (s.passCycle a).chain = s.chain.observe s.cfg s.out (s.passCycle a).out := rfl
@[simp] theorem State.passCycle_cycle (s a : State) : (s.passCycle a).cycle = s.cycle + 1 := rfl
@[simp] theorem State.passCycle_cfg (s a : State) : (s.passCycle a).cfg = a.cfg := by
  unfold State.passCycle; cases s.busy <;> simp
@[simp] theorem State.passCycle_flags (s a : State) : (s.passCycle a).flags = a.flags := by
  unfold State.passCycle; cases s.busy <;> simp
@[simp] theorem State.passCycle_host (s a : State) : (s.passCycle a).host = a.host := by
  unfold State.passCycle; cases s.busy <;> simp
@[simp] theorem State.passCycle_rst (s a : State) : (s.passCycle a).rst = a.rst := by
  unfold State.passCycle; cases s.busy <;> simp
@[simp] theorem State.passCycle_reads (s a : State) : (s.passCycle a).reads = a.reads := by
  unfold State.passCycle; cases s.busy <;> simp

/-- In a busy cycle the sequencer steps on the state the access left (R63). -/
theorem State.passCycle_busy (s a : State) (h : s.busy = true) :
    (s.passCycle a).out = a.sequence.out ∧ (s.passCycle a).q = a.sequence.q ∧ (s.passCycle a).t = a.sequence.t ∧
      (s.passCycle a).trace = a.sequence.trace := by
  simp [State.passCycle, h]

/-- In an idle cycle the sequencer does not step (R128). -/
theorem State.passCycle_idle (s a : State) (h : s.busy = false) :
    (s.passCycle a).out = a.out ∧ (s.passCycle a).q = a.q ∧ (s.passCycle a).t = a.t ∧ (s.passCycle a).trace = a.trace := by
  simp [State.passCycle, h]

/-! ### `busy` -/

theorem State.busy_eq_false {s : State} : s.busy = false ↔ s.q = [] := by
  simp [State.busy]

theorem State.busy_eq_true {s : State} : s.busy = true ↔ s.q ≠ [] := by
  simp [State.busy]

/-- The two outcomes of a sequencer step (R128). -/
theorem State.sequence_cons {s : State} {e : Event} {rest : List Event} (h : s.q = e :: rest) :
    (s.t = s.cfg.eventCycles - 1 ∧
      s.sequence = { s with out := s.out.perform e, q := rest, t := 0, trace := s.trace ++ [.emit e s.cycle] }) ∨
    (s.t ≠ s.cfg.eventCycles - 1 ∧ s.sequence = { s with t := s.t + 1 }) := by
  unfold State.sequence
  rw [h]
  by_cases ht : s.t = s.cfg.eventCycles - 1 <;> simp [ht]

end Sys2Proof.Machine
end

