-- ==== Sys2Proof/Laws/Transport.lean ====
section
/-! SUPPORT. The shape of the event lists: their lengths, that no frame touches the output enable, and where LOAD ends
(40_transport.md R120 to R127). -/

namespace Sys2Proof.Machine

@[simp] theorem byteBits_length (v : Byte) : (byteBits v).length = 8 := rfl

@[simp] theorem pairBits_length (p : Pair) : (pairBits p).length = 16 := rfl

@[simp] theorem bitEvents_length (x : Bool) : (bitEvents x).length = 3 := rfl

theorem bitsEvents_length (bs : List Bool) : (bs.flatMap bitEvents).length = 3 * bs.length := by
  induction bs with
  | nil => rfl
  | cons b bs ih => simp [ih]; omega

theorem frameBits_length (f : Frame) : (frameBits f).length = 16 * f.length := by
  induction f with
  | nil => rfl
  | cons p f ih => simp [frameBits] at ih ⊢; omega

/-- A frame is never without events. -/
@[simp] theorem frameEvents_isEmpty (f : Frame) : (frameEvents f).isEmpty = false := rfl

@[simp] theorem framesEvents_nil : framesEvents [] = [] := rfl

@[simp] theorem framesEvents_cons (f : Frame) (fs : List Frame) :
    framesEvents (f :: fs) = frameEvents f ++ framesEvents fs := rfl

/-- A command's events are empty only without setup events and without frames. -/
theorem Work.events_isEmpty (w : Work) : w.events.isEmpty = (!w.setup && w.frames.isEmpty) := by
  obtain ⟨fl, st, fs⟩ := w
  cases st <;> cases fs <;> simp [Work.events, setupEvents, framesEvents, frameEvents]

/-- The bits of a frame write CLK and DATA only. -/
theorem bitsEvents_line {bs : List Bool} {e : Event} (h : e ∈ bs.flatMap bitEvents) : e.line = .clk ∨ e.line = .data := by
  simp only [List.mem_flatMap, bitEvents, List.mem_cons, List.not_mem_nil, or_false] at h
  obtain ⟨b, -, rfl | rfl | rfl⟩ := h <;> simp

/-- No frame writes the output enable (R127). -/
theorem framesEvents_line {fs : List Frame} {e : Event} (h : e ∈ framesEvents fs) : e.line ≠ .oe := by
  simp only [framesEvents, List.mem_flatMap, frameEvents, List.mem_cons, List.mem_append, List.not_mem_nil, or_false] at h
  obtain ⟨f, -, rfl | h | rfl⟩ := h
  · simp
  · obtain ⟨b, -, h⟩ := h
    simp only [bitEvents, List.mem_cons, List.not_mem_nil, or_false] at h
    rcases h with rfl | rfl | rfl <;> simp
  · simp

/-- Every event of a command that writes the output enable sets it (R127). -/
theorem Work.events_oe {w : Work} {e : Event} (h : e ∈ w.events) (hl : e.line = .oe) : e.level = true := by
  unfold Work.events at h
  rcases List.mem_append.1 h with h | h
  · split at h
    · simp only [setupEvents, List.mem_cons, List.not_mem_nil, or_false] at h
      rcases h with rfl | rfl | rfl | rfl <;> simp_all
    · simp at h
  · exact absurd hl (framesEvents_line h)

/-- Performing one frame ends with LOAD high, whatever the lines were (R126). -/
theorem foldl_frameEvents_load (f : Frame) (o : Out) : ((frameEvents f).foldl Out.perform o).load = true := by
  simp [frameEvents, Out.perform]

/-- Performing frames ends with LOAD high, or leaves it when there are none. -/
theorem foldl_framesEvents_load (fs : List Frame) (o : Out) (h : o.load = true) :
    ((framesEvents fs).foldl Out.perform o).load = true := by
  induction fs generalizing o with
  | nil => exact h
  | cons f fs ih =>
    rw [framesEvents_cons, List.foldl_append]
    exact ih _ (foldl_frameEvents_load f o)

/-- Performing a command's events leaves LOAD high if it was high (R126). -/
theorem Work.foldl_events_load (w : Work) (o : Out) (h : o.load = true) : (w.events.foldl Out.perform o).load = true := by
  unfold Work.events
  rw [List.foldl_append]
  apply foldl_framesEvents_load
  split
  · simp [setupEvents, Out.perform]
  · exact h

end Sys2Proof.Machine
end

