-- ==== Sys2Proof/Laws/Ops.lean ====
section
/-! SUPPORT. Command acceptance said once: its four outcomes, and what each meaning hands to it (30_encoding.md R97). -/

namespace Sys2Proof.Machine

/-- What `Accept` does with a legal word (R97): discarded with OVR while busy, discarded with NCFG while OE = 0 unless it is
INIT, performed as no event, or queued. -/
theorem State.acceptWork_cases (s : State) (isInit : Bool) (w : Work) :
    (s.q ≠ [] ∧ s.acceptWork isInit w = s.discardWith .ovr) ∨
    (s.q = [] ∧ isInit = false ∧ s.out.oe = false ∧ s.acceptWork isInit w = s.discardWith .ncfg) ∨
    (s.q = [] ∧ (isInit = true ∨ s.out.oe = true) ∧ w.events = [] ∧ s.acceptWork isInit w = s.raise w.flags) ∨
    (s.q = [] ∧ (isInit = true ∨ s.out.oe = true) ∧ w.events ≠ [] ∧
      s.acceptWork isInit w = { s with flags := s.flags.setAll w.flags, q := w.events, t := 0 }) := by
  by_cases hq : s.q = []
  · have hb : s.busy = false := State.busy_eq_false.2 hq
    by_cases hc : isInit = true ∨ s.out.oe = true
    · have hg : (!isInit && !s.configured) = false := by
        rcases hc with h | h <;> simp [State.configured, h]
      have ha : s.acceptWork isInit w = s.beginWork w := by simp [State.acceptWork, hb, hg]
      by_cases he : w.events = []
      · exact .inr (.inr (.inl ⟨hq, hc, he, by rw [ha, State.beginWork_of_isEmpty _ _ (by simp [he])]⟩))
      · exact .inr (.inr (.inr ⟨hq, hc, he, by rw [ha, State.beginWork_of_events _ _ (by simpa using he)]⟩))
    · have hi : isInit = false := by simpa using fun h => hc (.inl h)
      have ho : s.out.oe = false := by simpa using fun h => hc (.inr h)
      exact .inr (.inl ⟨hq, hi, ho, by simp [State.acceptWork, hb, hi, State.configured, ho]⟩)
  · exact .inl ⟨hq, by simp [State.acceptWork, State.busy_eq_true.2 hq]⟩

/-- Acceptance writes the flags, `Q` and `T` alone. -/
theorem State.acceptWork_frame (s : State) (isInit : Bool) (w : Work) :
    (s.acceptWork isInit w).cfg = s.cfg ∧ (s.acceptWork isInit w).out = s.out ∧
    (s.acceptWork isInit w).trace = s.trace ∧ (s.acceptWork isInit w).chain = s.chain ∧
    (s.acceptWork isInit w).cycle = s.cycle ∧ (s.acceptWork isInit w).host = s.host ∧
    (s.acceptWork isInit w).rst = s.rst ∧ (s.acceptWork isInit w).reads = s.reads := by
  rcases s.acceptWork_cases isInit w with ⟨-, h⟩ | ⟨-, -, -, h⟩ | ⟨-, -, -, h⟩ | ⟨-, -, -, h⟩ <;> rw [h] <;> simp

/-- What an illegal word does (R97). -/
theorem State.acceptIllegal_eq (s : State) :
    s.acceptIllegal = s.discardWith (if s.busy then .ovr else .ill) := by
  unfold State.acceptIllegal
  split <;> rfl

end Sys2Proof.Machine
end

