-- ==== Sys2Proof/Laws/Dispatch.lean ====
section
/-! SUPPORT. Every meaning is command acceptance of that command's work, so a fact about acceptance is a fact about `exec`. -/

namespace Sys2Proof.Machine

/-- The command is INIT, the one accepted while OE = 0 (R97). -/
def isInit : Instr → Bool
  | .init => true
  | .setb _ => false
  | .clear => false
  | .drowd _ _ _ => false
  | .drowdAll _ _ => false
  | .wreg _ _ _ => false
  | .wregAll _ _ => false

/-- The work of each command (R180, R185, R188, R156, R160). -/
def workOf (cfg : Config) : Instr → Work
  | .init => workInit cfg
  | .setb level => workSetb cfg level
  | .clear => workClear cfg
  | .drowd row pattern dev => workDrowd cfg row pattern (.dev dev)
  | .drowdAll row pattern => workDrowd cfg row pattern .all
  | .wreg addr data dev => workWreg cfg addr data (.dev dev)
  | .wregAll addr data => workWreg cfg addr data .all

/-- No command stops the machine: each answers the state acceptance gives. -/
theorem exec_eq (i : Instr) (s : State) : exec i s = .next (s.acceptWork (isInit i) (workOf s.cfg i)) := by
  cases i <;> rfl

/-- Only DROWD's and the targeted commands' works set a flag, and those flags are DROP and CLAMP (R240). -/
theorem workOf_flags {cfg : Config} {i : Instr} {f : Flag} (h : f ∈ (workOf cfg i).flags) : f = .drop ∨ f = .clamp := by
  have toTarget {a d : Byte} {t : Target} (h : f ∈ (Work.toTarget cfg.n a d t).flags) : f = .drop ∨ f = .clamp :=
    .inr (mem_resolveFlags (n := cfg.n) (t := t) h)
  have drowd {r : Nat} {p : Byte} {t : Target} (h : f ∈ (workDrowd cfg r p t).flags) : f = .drop ∨ f = .clamp := by
    unfold workDrowd at h
    split at h
    · exact toTarget h
    · exact .inl (by simpa [Work.dropped] using h)
  cases i with
  | init => simp [workOf, workInit] at h
  | setb => simp [workOf, workSetb, Work.broadcast] at h
  | clear => simp [workOf, workClear] at h
  | drowd => exact drowd h
  | drowdAll => exact drowd h
  | wreg => exact toTarget h
  | wregAll => exact toTarget h

/-- Only INIT has setup events (R125). -/
theorem workOf_setup (cfg : Config) (i : Instr) : (workOf cfg i).setup = isInit i := by
  cases i <;> simp only [workOf, workInit, workSetb, workClear, workDrowd, workWreg, Work.broadcast, Work.toTarget, isInit] <;>
    split <;> rfl

/-- Every frame of a command has exactly N pairs (R155). -/
theorem workOf_frames_length {cfg : Config} {i : Instr} {f : Frame} (h : f ∈ (workOf cfg i).frames) : f.length = cfg.n := by
  cases i <;> simp only [workOf, workInit, workSetb, workClear, workDrowd, workWreg, Work.broadcast, Work.toTarget] at h
  case init =>
    simp only [initFrames, clearFrames, List.map_cons, List.map_nil, List.cons_append, List.nil_append, List.mem_cons,
      List.not_mem_nil, or_false] at h
    rcases h with rfl | rfl | rfl | rfl | rfl | rfl | rfl | rfl | rfl | rfl | rfl | rfl | rfl <;> simp
  case clear =>
    simp only [clearFrames, List.map_cons, List.map_nil, List.mem_cons, List.not_mem_nil, or_false] at h
    rcases h with rfl | rfl | rfl | rfl | rfl | rfl | rfl | rfl <;> simp
  case setb => simp at h; simp [h]
  case drowd => split at h
                · simp at h; simp [h]
                · simp [Work.dropped] at h
  case drowdAll => split at h
                   · simp at h; simp [h]
                   · simp [Work.dropped] at h
  case wreg => simp at h; simp [h]
  case wregAll => simp at h; simp [h]

end Sys2Proof.Machine
end

