-- ==== Sys2Proof/Laws/PerInstr.lean ====
section
/-! SUPPORT. Per-command facts about the syntax: every well-formed command has a legal word (30_encoding.md R93, R100). -/

namespace Sys2Proof.Laws.EncodeLegal

/-- The word of a well-formed command is legal. -/
def Statement (i : Instr) : Prop := i.wellFormed = true → legal (encode i) = true

theorem init : Statement .init := fun _ => by decide

theorem setb (level : Byte) : Statement (.setb level) := fun _ => by
  simp [legal, encode]
  exact setbBits_packWord 0x2 level

theorem clear : Statement .clear := fun _ => by decide

theorem drowd (row : Nat) (pattern : Byte) (dev : Nat) : Statement (.drowd row pattern dev) := fun _ => by
  simp [legal, encode]

theorem drowdAll (row : Nat) (pattern : Byte) : Statement (.drowdAll row pattern) := fun _ => by
  simp [legal, encode]

theorem wreg (addr data : Byte) (dev : Nat) : Statement (.wreg addr data dev) := fun _ => by
  simp [legal, encode]

theorem wregAll (addr data : Byte) : Statement (.wregAll addr data) := fun _ => by
  simp [legal, encode]

end Sys2Proof.Laws.EncodeLegal
end

