-- ==== Sys2Proof/Laws/Window.lean ====
section
/-! SUPPORT. The window said once: which access hits which register, the accesses the host's operations make, and everything
one access can do (20_memory.md R61 to R65). -/

namespace Sys2Proof.Machine

/-- An aligned 32-bit access hits the register at its offset (R61, R62). -/
@[simp] theorem windowHit_reg (base : Nat) (r : WindowReg) : windowHit base (base + r.offset) 4 = .reg r := by
  cases r <;> simp [windowHit, WindowReg.offset] <;> omega

@[simp] theorem windowHit_base (base : Nat) : windowHit base base 4 = .reg .cmd := windowHit_reg base .cmd

/-- Only an aligned 32-bit access hits a register (R62). -/
theorem windowHit_eq_reg {base addr n : Nat} {r : WindowReg} (h : windowHit base addr n = .reg r) :
    n = 4 ∧ addr = base + r.offset := by
  unfold windowHit at h
  repeat' split at h
  all_goals simp_all

/-- The access of each of R102's host operations. -/
theorem State.hostAccess_cmd {s : State} {w : Word} {rest : List HostOp} (h : s.host = .cmd w :: rest) :
    s.hostAccess = some (.write s.cfg.base (wordLanes w)) := by
  simp [State.hostAccess, State.hostOp, h, HostOp.access, WindowReg.offset]

/-- An illegal word never stops the machine, and neither does a legal one (R97). -/
theorem State.accept_next (s : State) (w : Word) :
    (∃ i, decode w = .ok i ∧ s.accept w = .next (s.acceptWork (isInit i) (workOf s.cfg i))) ∨
    (legal w = false ∧ s.accept w = .next s.acceptIllegal) := by
  unfold State.accept
  cases h : decode w with
  | ok i => exact .inl ⟨i, rfl, by simp [exec_eq]⟩
  | error e => exact .inr ⟨(decode_error h).1, rfl⟩

/-- Everything one host access can do when it answers a next state (R61, R97, R23): return a read, accept a legal command,
discard an illegal word, clear flags, or nothing. -/
theorem State.access_cases {s a : State} {acc : Access} (h : s.access acc = .next a) :
    (∃ addr n r, acc = .read addr n ∧ windowHit s.cfg.base addr n = .reg r ∧ a = s.returnRead addr (s.readWindow r)) ∨
    (∃ addr bytes w, acc = .write addr bytes ∧ windowHit s.cfg.base addr bytes.length = .reg .cmd ∧
      wordOfLanes bytes = some w ∧
      ((∃ i, decode w = .ok i ∧ a = s.acceptWork (isInit i) (workOf s.cfg i)) ∨ (legal w = false ∧ a = s.acceptIllegal))) ∨
    (∃ addr bytes w, acc = .write addr bytes ∧ windowHit s.cfg.base addr bytes.length = .reg .status ∧
      wordOfLanes bytes = some w ∧ a = { s with flags := s.flags.writeOneToClear w }) ∨
    (∃ addr bytes r, acc = .write addr bytes ∧ windowHit s.cfg.base addr bytes.length = .reg r ∧
      (r = .pins ∨ r = .reserved) ∧ a = s) := by
  cases acc with
  | read addr n =>
    refine .inl ?_
    cases hr : windowHit s.cfg.base addr n <;> simp [State.access, hr] at h
    exact ⟨addr, n, _, rfl, hr, h.symm⟩
  | write addr bytes =>
    refine .inr ?_
    cases hr : windowHit s.cfg.base addr bytes.length with
    | busError => simp [State.access, hr] at h
    | outside => simp [State.access, hr] at h
    | reg r =>
      cases hw : wordOfLanes bytes with
      | none => simp [State.access, hr, hw] at h
      | some w =>
        simp only [State.access, hr, hw] at h
        cases r with
        | cmd =>
          refine .inl ⟨addr, bytes, w, rfl, hr, hw, ?_⟩
          rcases s.accept_next w with ⟨i, hi, he⟩ | ⟨hi, he⟩
          · simp only [State.writeWindow, he, Host.Outcome.next.injEq] at h
            exact .inl ⟨i, hi, h.symm⟩
          · simp only [State.writeWindow, he, Host.Outcome.next.injEq] at h
            exact .inr ⟨hi, h.symm⟩
        | status =>
          simp only [State.writeWindow, Host.Outcome.next.injEq] at h
          exact .inr (.inl ⟨addr, bytes, w, rfl, hr, hw, h.symm⟩)
        | pins =>
          simp only [State.writeWindow, Host.Outcome.next.injEq] at h
          exact .inr (.inr ⟨addr, bytes, _, rfl, hr, .inl rfl, h.symm⟩)
        | reserved =>
          simp only [State.writeWindow, Host.Outcome.next.injEq] at h
          exact .inr (.inr ⟨addr, bytes, _, rfl, hr, .inr rfl, h.symm⟩)

end Sys2Proof.Machine
end

