-- ==== Sys2Proof/Laws/Step.lean ====
section
/-! SUPPORT. One clock cycle said once: everything a step can do, in terms of the access it performed (00_scope.md R8; 20_memory.md
R63; 70_reset_and_hazards.md R270). -/

namespace Sys2Proof.Machine

/-- The fields a host access can write: the flags, `Q` and `T` of an accepted command, and the log of reads. -/
structure SameButAccess (s a : State) : Prop where
  cfg : a.cfg = s.cfg
  out : a.out = s.out
  trace : a.trace = s.trace
  chain : a.chain = s.chain
  cycle : a.cycle = s.cycle
  host : a.host = s.host
  rst : a.rst = s.rst

theorem SameButAccess.rfl' (s : State) : SameButAccess s s := ⟨rfl, rfl, rfl, rfl, rfl, rfl, rfl⟩

theorem SameButAccess.acceptWork (s : State) (i : Bool) (w : Work) : SameButAccess s (s.acceptWork i w) :=
  let h := s.acceptWork_frame i w
  ⟨h.1, h.2.1, h.2.2.1, h.2.2.2.1, h.2.2.2.2.1, h.2.2.2.2.2.1, h.2.2.2.2.2.2.1⟩

theorem SameButAccess.acceptIllegal (s : State) : SameButAccess s s.acceptIllegal := by
  rw [s.acceptIllegal_eq]; exact ⟨rfl, rfl, rfl, rfl, rfl, rfl, rfl⟩

/-- What the access of a cycle leaves alone, and what it may do to `Q` and `T` (R63, R97): nothing, or, from an idle state
only, the events of a command that may be accepted there. -/
theorem State.hostCycle_effect {s a : State} (h : s.hostCycle = .next a) :
    SameButAccess s a ∧
    ((a.q = s.q ∧ a.t = s.t) ∨
      ∃ i, s.q = [] ∧ (isInit i = true ∨ s.out.oe = true) ∧ a.q = (workOf s.cfg i).events ∧ a.t = 0) := by
  have work (i : Instr) : SameButAccess s (s.acceptWork (isInit i) (workOf s.cfg i)) ∧
      (((s.acceptWork (isInit i) (workOf s.cfg i)).q = s.q ∧ (s.acceptWork (isInit i) (workOf s.cfg i)).t = s.t) ∨
        ∃ i', s.q = [] ∧ (isInit i' = true ∨ s.out.oe = true) ∧
          (s.acceptWork (isInit i) (workOf s.cfg i)).q = (workOf s.cfg i').events ∧
          (s.acceptWork (isInit i) (workOf s.cfg i)).t = 0) := by
    refine ⟨.acceptWork s _ _, ?_⟩
    rcases s.acceptWork_cases (isInit i) (workOf s.cfg i) with ⟨-, e⟩ | ⟨-, -, -, e⟩ | ⟨-, -, -, e⟩ | ⟨hq, hc, -, e⟩
    · rw [e]; exact .inl ⟨rfl, rfl⟩
    · rw [e]; exact .inl ⟨rfl, rfl⟩
    · rw [e]; exact .inl ⟨rfl, rfl⟩
    · rw [e]; exact .inr ⟨i, hq, hc, rfl, rfl⟩
  unfold State.hostCycle at h
  split at h
  · rcases State.access_cases h with ⟨_, _, _, -, -, rfl⟩ | ⟨_, _, _, -, -, -, ⟨i, -, rfl⟩ | ⟨-, rfl⟩⟩ | ⟨_, _, _, -, -, -, rfl⟩ |
      ⟨_, _, _, -, -, -, rfl⟩
    · exact ⟨⟨rfl, rfl, rfl, rfl, rfl, rfl, rfl⟩, .inl ⟨rfl, rfl⟩⟩
    · exact work i
    · refine ⟨.acceptIllegal s, .inl ?_⟩
      rw [s.acceptIllegal_eq]; exact ⟨rfl, rfl⟩
    · exact ⟨⟨rfl, rfl, rfl, rfl, rfl, rfl, rfl⟩, .inl ⟨rfl, rfl⟩⟩
    · exact ⟨.rfl' _, .inl ⟨rfl, rfl⟩⟩
  · simp only [Host.Outcome.next.injEq] at h
    subst h
    exact ⟨.rfl' s, .inl ⟨rfl, rfl⟩⟩

/-- The two ways a step answers a next state: a reset cycle (R270), or an access and the rest of the cycle (R63). -/
theorem step_next {s t : State} (h : step s = .next t) :
    (s.rstAsserted = true ∧ t = s.hostInReset.resetCycle.takeInputs s.host.tail) ∨
    (s.rstAsserted = false ∧ ∃ a, s.hostCycle = .next a ∧ t = (s.passCycle a).takeInputs s.hostRest) := by
  unfold step at h
  cases hr : s.rstAsserted with
  | true =>
    simp only [hr, if_true, Host.Outcome.next.injEq] at h
    exact .inl ⟨rfl, h.symm⟩
  | false =>
    simp only [hr, Bool.false_eq_true, if_false] at h
    cases ha : s.hostCycle <;> simp [ha] at h
    exact .inr ⟨rfl, _, rfl, h.symm⟩

/-- What a reset cycle's host access leaves alone: everything but the log of reads (R66). -/
theorem State.hostInReset_eq (s : State) : ∃ rs, s.hostInReset = { s with reads := s.reads ++ rs } := by
  unfold State.hostInReset
  split
  · exact ⟨_, rfl⟩
  · exact ⟨[], by simp⟩

/-- What a step does to the lines, the queue, the slot counter and the trace when reset is not asserted: nothing but what the
access did in an idle cycle, and exactly the sequencer step of S(n) in a busy one, whatever the host did (R63, R128, R243). -/
theorem step_machine {s t : State} (h : step s = .next t) (hr : s.rstAsserted = false) :
    (s.q = [] ∧ t.out = s.out ∧ t.trace = s.trace ∧
      ((t.q = [] ∧ t.t = s.t) ∨
        ∃ i, (isInit i = true ∨ s.out.oe = true) ∧ t.q = (workOf s.cfg i).events ∧ t.t = 0)) ∨
    (∃ e rest, s.q = e :: rest ∧
      ((s.t = s.cfg.eventCycles - 1 ∧ t.out = s.out.perform e ∧ t.q = rest ∧ t.t = 0 ∧
          t.trace = s.trace ++ [.emit e s.cycle]) ∨
        (s.t ≠ s.cfg.eventCycles - 1 ∧ t.out = s.out ∧ t.q = s.q ∧ t.t = s.t + 1 ∧ t.trace = s.trace))) := by
  rcases step_next h with ⟨h1, -⟩ | ⟨-, a, ha, rfl⟩
  · rw [hr] at h1; exact absurd h1 (by simp)
  obtain ⟨same, eff⟩ := State.hostCycle_effect ha
  cases hq : s.q with
  | nil =>
    left
    obtain ⟨ho, hqq, ht, htr⟩ := s.passCycle_idle a (State.busy_eq_false.2 hq)
    refine ⟨rfl, by simp [ho, same.out], by simp [htr, same.trace], ?_⟩
    rcases eff with ⟨e1, e2⟩ | ⟨i, -, hc, e1, e2⟩
    · exact .inl ⟨by simp [hqq, e1, hq], by simp [ht, e2]⟩
    · exact .inr ⟨i, hc, by simp [hqq, e1], by simp [ht, e2]⟩
  | cons e rest =>
    right
    obtain ⟨ho, hqq, ht, htr⟩ := s.passCycle_busy a (State.busy_eq_true.2 (by simp [hq]))
    rcases eff with ⟨e1, e2⟩ | ⟨i, hn, -⟩
    swap
    · rw [hq] at hn; exact absurd hn (by simp)
    refine ⟨e, rest, rfl, ?_⟩
    rcases a.sequence_cons (e1.trans hq) with ⟨h1, h2⟩ | ⟨h1, h2⟩
    · rw [e2, same.cfg] at h1
      refine .inl ⟨h1, ?_⟩
      simp [ho, hqq, ht, htr, h2, same.out, same.trace, same.cycle]
    · rw [e2, same.cfg] at h1
      refine .inr ⟨h1, ?_⟩
      simp [ho, hqq, ht, htr, h2, same.out, same.trace, e1, e2, hq]

/-- The chain after a step is what the line levels of the two states make of it (R210), in a reset cycle too. -/
theorem step_chain {s t : State} (h : step s = .next t) : t.chain = s.chain.observe s.cfg s.out t.out := by
  rcases step_next h with ⟨-, rfl⟩ | ⟨-, a, -, rfl⟩
  · obtain ⟨rs, e⟩ := s.hostInReset_eq
    simp [e]
  · simp

/-- No step changes a parameter (R272). -/
theorem step_cfg {s t : State} (h : step s = .next t) : t.cfg = s.cfg := by
  rcases step_next h with ⟨-, rfl⟩ | ⟨-, a, ha, rfl⟩
  · obtain ⟨rs, e⟩ := s.hostInReset_eq
    simp [e]
  · simp [(State.hostCycle_effect ha).1.cfg]

end Sys2Proof.Machine
end

