-- ==== Sys2Proof/Tests/Slice0.lean ====
section
/-! SUPPORT. Tests. Expected values are those of spec/95_test_vectors.md (named V-... or P...) or worked by hand from the rule
named; and, for every statement with hypotheses, a concrete state that meets them (`witness_...`). -/

open Sys2Proof Sys2Proof.Machine

namespace Sys2Proof.Tests

/-! ### Small states -/

/-- The standard parameters with another chain length and event spacing. -/
def cfgOf (n c : Nat) : Config := { Config.standard with n := n, eventCycles := c }

/-- After reset, with these host operations to come. -/
def fresh (n : Nat) (host : List HostOp) : State := { State.resetWith (cfgOf n 1) with host := host }

/-- Idle and configured, as after a frame whose last bit was 0 (R126), every device register unknown. -/
def ready (n : Nat) (host : List HostOp) : State :=
  { State.resetWith (cfgOf n 1) with out := ⟨false, true, true, true⟩, host := host }

/-- Configured, with two events left of a command. -/
def busy (n : Nat) (host : List HostOp) : State := { ready n host with q := [⟨.clk, false⟩, ⟨.load, true⟩] }

/-- A register file with every register known. -/
def known : DevRegs := ⟨Vector.replicate 8 (some 0x00), some 0x00, some 0x0F, some 0x07, some 0x01, some 0x00⟩

/-- What the next state says, or `none` where the step stops. -/
def after {α : Type} (f : State → α) (s : State) : Option α := (nextState (step s)).map f

/-- The next state of a meaning. -/
def afterExec {α : Type} (f : State → α) (i : Instr) (s : State) : Option α := (nextState (exec i s)).map f

/-! ### WellFormed and Config: an ill-formed term for each check -/

theorem test_wf_drowd_row : (Instr.drowd 256 0 0).wellFormed = false ∧ (Instr.drowd 255 0 255).wellFormed = true := by decide
theorem test_wf_drowd_dev : (Instr.drowd 0 0 256).wellFormed = false := by decide
theorem test_wf_drowdAll_row : (Instr.drowdAll 256 0).wellFormed = false ∧ (Instr.drowdAll 255 0).wellFormed = true := by decide
theorem test_wf_wreg_dev : (Instr.wreg 0 0 256).wellFormed = false ∧ (Instr.wreg 0 0 255).wellFormed = true := by decide

theorem test_config_n : ¬ (cfgOf 0 1).Valid ∧ ¬ (cfgOf 256 1).Valid ∧ (cfgOf 1 1).Valid ∧ (cfgOf 255 1).Valid := by decide
theorem test_config_eventCycles : ¬ (cfgOf 1 0).Valid := by decide
theorem test_config_base : ¬ ({ Config.standard with base := 8 } : Config).Valid := by decide
theorem test_config_distinct : ¬ ({ Config.standard with regTest := 0x09 } : Config).Valid := by decide
theorem test_config_alias : ¬ ({ Config.standard with regTest := 0x08 } : Config).Valid := by decide

/-! ### Decode and encode (V-ENC-1, V-ENC-2; words from R90's fields, written bit by bit) -/

theorem test_decode_init : decode 0b00010000000000000000000000000000 = .ok .init := by decide
theorem test_decode_setb : decode 0b00100000000000000000000000110111 = .ok (.setb 0x37) := by decide
theorem test_decode_clear : decode 0b00110000000000000000000000000000 = .ok .clear := by decide
theorem test_decode_drowd : decode 0b01000000000010010000001100001111 = .ok (.drowd 3 0x0F 9) := by decide
theorem test_decode_drowdAll : decode 0b01001000000000000000001110100101 = .ok (.drowdAll 3 0xA5) := by decide
theorem test_decode_wreg : decode 0b01010000000001010000000110000001 = .ok (.wreg 0x01 0x81 5) := by decide
theorem test_decode_wregAll : decode 0b01011000000000000000101000001111 = .ok (.wregAll 0x0A 0x0F) := by decide
theorem test_decode_extremes : decode 0x40FF0700 = .ok (.drowd 7 0x00 255) ∧ decode 0x40000800 = .ok (.drowd 8 0x00 0) := by decide

/-- The illegal words of V-ENC-1. -/
theorem test_decode_illegal :
    ([0x10000001, 0x18000000, 0x20000100, 0x20010005, 0x30000008, 0x48010000, 0x41000000, 0x5C000000, 0x00000000, 0x60000000,
      0xF0000000, 0xFFFFFFFF] : List Word).all (fun w => !legal w) = true := by decide

theorem test_decode_bytes : decodeBytes [0xFF, 0x00, 0x02, 0x40] = .ok (.drowd 0 0xFF 2) ∧
    decodeBytes [0xFF, 0x00, 0x02] = .error (.wrongLength 3) := by decide

theorem test_encode : encode (.drowd 3 0x0F 9) = 0x4009030F ∧ encode (.setb 0x37) = 0x20000037 ∧
    encode (.wreg 0x01 0x81 5) = 0x50050181 ∧ encode (.drowdAll 0 0xFF) = 0x480000FF ∧ encode .init = 0x10000000 ∧
    encode .clear = 0x30000000 ∧ encode (.wregAll 0x00 0x00) = 0x58000000 := by decide

/-- Every row of the table, through the host's numbering of the bits. -/
theorem test_table_words : opcodeTable.map (fun r => (decodeTableWord 32 r.pattern.toNat).map Instr.mnemonic) =
    opcodeTable.map (fun r => some r.mnemonic) := by decide

/-- V-ENC-2, from the text. -/
theorem test_assemble_text :
    assembleText "DROWD 3, 0x0F, 9".toList = .ok (some 0x4009030F) ∧ assembleText "  SETB 0x37 ; dim".toList = .ok (some 0x20000037) ∧
    assembleText "WREG 0x01, 0x81, 5".toList = .ok (some 0x50050181) ∧ assembleText "DROW 0, 0b11111111".toList = .ok (some 0x480000FF) ∧
    assembleText "WREG 0x0A, 0x0F, ALL".toList = .ok (some 0x58000A0F) ∧ assembleText "NOPF".toList = .ok (some 0x58000000) ∧
    assembleText "INIT".toList = .ok (some 0x10000000) ∧ assembleText "CLEAR".toList = .ok (some 0x30000000) := by decide

theorem test_assemble_errors : assembleText "SETB 256".toList = .error (.doesNotFit 256) ∧
    assembleText "DROW 1".toList = .error .noSuchForm ∧ assembleText "; comment".toList = .ok none := by decide

/-! ### STATUS and PINS (section 2.2, V-RST-1) -/

def allFlags : State := { ready 2 [] with flags := ⟨true, true, true, true, true⟩ }

theorem test_status_all : allFlags.statusWord = 0x0002007E := by decide
theorem test_status_w1c : after State.statusWord { allFlags with host := [.w1c 0x00000024] } = some 0x0002005A := by decide
theorem test_status_w1c_all : after State.statusWord { allFlags with host := [.w1c 0xFFFFFFFF] } = some 0x00020002 := by decide
theorem test_reset_status_pins : (State.resetWith (cfgOf 4 1)).statusWord = 0x00040000 ∧
    (State.resetWith (cfgOf 4 1)).pinsWord = 0x00000004 := by decide

/-! ### Acceptance (section 2.2) -/

theorem test_accept_ncfg : after State.statusWord (fresh 2 [.cmd 0x40000001]) = some 0x00020010 := by decide
theorem test_accept_ill_before_ncfg : after State.statusWord (fresh 2 [.cmd 0x60000000]) = some 0x00020008 := by decide
theorem test_accept_ovr_before_ill : after (·.flags) (busy 2 [.cmd 0x60000000]) = some ⟨true, false, false, false, false⟩ := by decide
theorem test_accept_init : after State.statusWord (fresh 1 [.cmd 0x10000000]) = some 0x00010001 := by decide

/-! ### Transport (V-T-1 to V-T-4) -/

theorem test_byteBits : byteBits 0x0A = [false, false, false, false, true, false, true, false] ∧
    byteBits 0x80 = [true, false, false, false, false, false, false, false] := by decide

theorem test_byteEvents : (byteEvents 0x80).length = 24 ∧
    (byteEvents 0x80).take 6 = [⟨.clk, false⟩, ⟨.data, true⟩, ⟨.clk, true⟩, ⟨.clk, false⟩, ⟨.data, false⟩, ⟨.clk, true⟩] := by decide

/-- V-T-3: the DATA writes of the frame of `WREG 0x0A, 0x0F, ALL` with N = 1, and its first and last event. -/
theorem test_frame_wregAll : afterExec (fun t => (t.q.length, t.q.head?, t.q.getLast?,
      (t.q.filter (·.line == .data)).map (·.level))) (.wregAll 0x0A 0x0F) (ready 1 []) =
    some (50, some ⟨.load, false⟩, some ⟨.load, true⟩,
      [false, false, false, false, true, false, true, false, false, false, false, false, true, true, true, true]) := by decide

/-! ### The commands (V-ADR-1 to V-ADR-6, V-DRV-1, V-INIT-1, V-CLR-1) -/

theorem test_init_setup : afterExec (fun t => t.q.take 5) .init (fresh 1 []) =
    some [⟨.oe, true⟩, ⟨.load, true⟩, ⟨.clk, false⟩, ⟨.data, false⟩, ⟨.load, false⟩] := by decide

theorem test_init_frames : (workInit (cfgOf 1 1)).frames.map (List.map fun p => (p.addr, p.data)) =
    [[(0x0B, 0x07)], [(0x09, 0x00)], [(0x0C, 0x01)], [(0x0F, 0x00)], [(0x01, 0x00)], [(0x02, 0x00)], [(0x03, 0x00)],
     [(0x04, 0x00)], [(0x05, 0x00)], [(0x06, 0x00)], [(0x07, 0x00)], [(0x08, 0x00)], [(0x0A, 0x0F)]] := by decide

theorem test_setb_mask : (workSetb (cfgOf 4 1) 0x37).frames = [List.replicate 4 ⟨0x0A, 0x07⟩] ∧
    (workSetb (cfgOf 1 1) 0x10).frames = [[⟨0x0A, 0x00⟩]] := by decide

theorem test_clear_frames : (workClear (cfgOf 3 1)).frames.head? = some (List.replicate 3 ⟨0x01, 0x00⟩) ∧
    (workClear (cfgOf 3 1)).frames.getLast? = some (List.replicate 3 ⟨0x08, 0x00⟩) ∧ (workClear (cfgOf 3 1)).frames.length = 8 := by
  decide

theorem test_targetFrame : targetFrame 4 0x01 0xFF 2 = [⟨0, 0⟩, ⟨0x01, 0xFF⟩, ⟨0, 0⟩, ⟨0, 0⟩] ∧
    targetFrame 4 0x01 0xFF 0 = [⟨0, 0⟩, ⟨0, 0⟩, ⟨0, 0⟩, ⟨0x01, 0xFF⟩] := by decide

/-- V-ADR-2: devices 3, 4 and 255 of a chain of 4 are device 3; the last two set CLAMP. -/
theorem test_drowd_clamp : [3, 4, 255].map (fun d => workDrowd (cfgOf 4 1) 1 0x81 (.dev d)) =
    [⟨[], false, [[⟨0x02, 0x81⟩, ⟨0, 0⟩, ⟨0, 0⟩, ⟨0, 0⟩]]⟩, ⟨[.clamp], false, [[⟨0x02, 0x81⟩, ⟨0, 0⟩, ⟨0, 0⟩, ⟨0, 0⟩]]⟩,
     ⟨[.clamp], false, [[⟨0x02, 0x81⟩, ⟨0, 0⟩, ⟨0, 0⟩, ⟨0, 0⟩]]⟩] := by decide

/-- Rows 7 and 8 (V-ADR-4): 8 is dropped, with DROP and not CLAMP. -/
theorem test_drowd_rows : (workDrowd (cfgOf 2 1) 7 0x00 (.dev 0)).frames = [[⟨0, 0⟩, ⟨0x08, 0x00⟩]] ∧
    afterExec (fun t => (t.busy, t.flags)) (.drowd 8 0xFF 5) (ready 2 []) = some (false, ⟨false, false, false, true, false⟩) := by decide

theorem test_drowdAll_rows : (workDrowd (cfgOf 2 1) 0 0x55 .all).frames = [[⟨0x01, 0x55⟩, ⟨0x01, 0x55⟩]] ∧
    afterExec (fun t => (t.busy, t.flags)) (.drowdAll 8 0xFF) (ready 2 []) = some (false, ⟨false, false, false, true, false⟩) := by decide

theorem test_wreg_frame : (workWreg (cfgOf 2 1) 0x0A 0x37 (.dev 0)).frames = [[⟨0, 0⟩, ⟨0x0A, 0x37⟩]] ∧
    (workWreg (cfgOf 2 1) 0x0C 0x00 (.dev 1)).frames = [[⟨0x0C, 0x00⟩, ⟨0, 0⟩]] := by decide

theorem test_wregAll_frame : (workWreg (cfgOf 2 1) 0x00 0x55 .all).frames = [[⟨0x00, 0x55⟩, ⟨0x00, 0x55⟩]] := by decide

/-! ### The sequencer and the trace -/

theorem test_sequencer_event : after (fun t => (t.out, t.q, t.trace)) (busy 1 []) =
    some (⟨false, false, true, true⟩, [⟨.load, true⟩], [.emit ⟨.clk, false⟩ 0]) := by decide

theorem test_sequencer_waits : after (fun t => (t.t, t.q.length, t.trace)) { busy 1 [] with cfg := cfgOf 1 2 } =
    some (1, 2, []) := by decide

/-! ### The devices (V-DEV-1 to V-DEV-4, V-ADR-6) -/

/-- The rows written by addresses 1 and 8, and the named registers. -/
theorem test_write_map : (DevRegs.unknown.write Config.standard 0x01 0x55).rows[0] = some 0x55 ∧
    (DevRegs.unknown.write Config.standard 0x08 0x55).rows[7] = some 0x55 ∧
    (DevRegs.unknown.write Config.standard 0x09 0x55).decode = some 0x55 ∧
    (DevRegs.unknown.write Config.standard 0x0A 0x55).intensity = some 0x55 ∧
    (DevRegs.unknown.write Config.standard 0x0B 0x55).scanLimit = some 0x55 ∧
    (DevRegs.unknown.write Config.standard 0x0C 0x55).shutdown = some 0x55 ∧
    (DevRegs.unknown.write Config.standard 0x0F 0x55).test = some 0x55 := by decide

/-- Address 0 is the no-op whatever the data; 0x0D, 0x10 and 0xFF are undefined (V-ADR-6, R217). -/
theorem test_write_noop_undefined : known.write Config.standard 0x00 0x55 = known ∧
    known.write Config.standard 0x0D 0x55 = DevRegs.unknown ∧ known.write Config.standard 0x10 0x55 = DevRegs.unknown ∧
    known.write Config.standard 0xFF 0x55 = DevRegs.unknown := by decide

/-- V-DEV-1: three devices whose shift registers hold 0x0000, 0x063C and 0x0000 commit. -/
def loaded : Chain := ⟨[0x0000, 0x063C, 0x0000].map fun v : BitVec 16 =>
  ⟨(byteBits (v.extractLsb' 8 8) ++ byteBits (v.extractLsb' 0 8)).map some, known⟩, some 48⟩

theorem test_commit : ((loaded.observe (cfgOf 3 1) ⟨false, true, false, true⟩ ⟨false, true, true, true⟩).devices.map (·.regs)) =
    [known, { known with rows := known.rows.set 5 (some 0x3C) }, known] := by decide

/-- V-DEV-2: a commit after 8 edges. -/
theorem test_violation : (({ loaded with ec := some 8 } : Chain).observe (cfgOf 3 1) ⟨false, true, false, true⟩
    ⟨false, true, true, true⟩).devices.map (·.regs) = List.replicate 3 DevRegs.unknown := by decide

/-- V-DEV-3 with one device: a frame into an all-unknown chain makes the register it writes known. -/
theorem test_frame_from_unknown : ((performAll (cfgOf 1 1) (frameEvents [⟨0x0C, 0x01⟩])
    (⟨false, false, true, true⟩, Chain.unknown 1)).2.devices.map fun d => d.regs) =
    [{ DevRegs.unknown with shutdown := some 0x01 }] := by decide

/-- R220. -/
theorem test_register_meanings : known.normalOperation = some true ∧ known.scansAllRows = some true ∧ known.rawSegments = some true ∧
    known.testDisabled = some true ∧ known.atMaxIntensity = some true ∧
    ({ known with shutdown := some 0x00 } : DevRegs).normalOperation = some false := by decide

/-! ### Reset and the host (V-RST-1, P4 cycles 1492 to 1494) -/

def resetting : State := { busy 2 [.rdStatus] with rst := [true], flags := ⟨false, false, false, false, true⟩, cycle := 1492 }

theorem test_reset_cycle : after (fun t => (t.statusWord, t.pinsWord, t.trace, t.chain)) resetting =
    some (0x00020000, 0x00000004, [.reset 1492], Chain.unknown 2) := by decide

theorem test_reset_read_is_zero : after (·.reads) resetting = some [⟨1492, 0x4, 0x00000000⟩] := by decide

theorem test_bus_error : (match step (ready 2 [.bus (.read 0x4 2)]) with | .fault (.busError 4 2) => true | _ => false) = true ∧
    (match step (ready 2 [.bus (.write 0x2 [0, 0, 0, 0])]) with | .fault (.busError 2 4) => true | _ => false) = true := by decide

theorem test_outside_window :
    (match step (ready 2 [.bus (.read 0x10 4)]) with | .refused (.outsideWindow 16 4) => true | _ => false) = true := by decide

theorem test_wait_stays_while_busy : after (·.host) (busy 2 [.wait, .rdPins]) = some [.wait, .rdPins] ∧
    after (·.host) (ready 2 [.wait, .rdPins]) = some [.rdPins] := by decide

/-- The first cycle after reset runs a placed command: INIT is accepted, any other command meets R242. -/
theorem test_first_command : opcodeTable.map (fun r => after (fun t => (t.busy, t.flags.ncfg))
      (State.reset.withFetchWord 32 r.pattern.toNat)) =
    [some (true, false), some (false, true), some (false, true), some (false, true), some (false, true), some (false, true),
     some (false, true)] := by decide

/-! ### Counters (R29) -/

theorem test_counters : (let w : Work := ⟨[], true, [[⟨0x0A, 0x0F⟩]]⟩
    Counters.run w.events.length (some (Counters.start w)) = (w.events, none)) := by decide

/-! ### Witnesses: a concrete state and operands for the hypotheses of each statement -/

theorem ready_inv (host : List HostOp) : (ready 2 host).Inv :=
  have h : (ready 2 []).Inv := ⟨by decide, by decide, by decide, by decide, by decide, by decide, by decide⟩
  ⟨h.cfg, h.slot, h.chain, h.oeOnly, h.undriven, h.gated, h.settles⟩

theorem busy_inv (host : List HostOp) : (busy 2 host).Inv :=
  have h : (busy 2 []).Inv := ⟨by decide, by decide, by decide, by decide, by decide, by decide, by decide⟩
  ⟨h.cfg, h.slot, h.chain, h.oeOnly, h.undriven, h.gated, h.settles⟩

theorem fresh_inv (host : List HostOp) : (fresh 2 host).Inv :=
  have h : (fresh 2 []).Inv := ⟨by decide, by decide, by decide, by decide, by decide, by decide, by decide⟩
  ⟨h.cfg, h.slot, h.chain, h.oeOnly, h.undriven, h.gated, h.settles⟩

/-- A machine whose host writes this command, and nothing else. -/
theorem readyFor (i : Instr) : (ready 2 [.cmd (encode i)]).ReadyFor i := ⟨ready_inv _, rfl, rfl, rfl, rfl⟩

theorem witness_DecodeOfEncodeIsTheCommand : (Instr.drowd 255 0xA5 255).wellFormed = true := by decide
theorem witness_EncodeOfDecodeIsTheWord : decode 0x40FF07A5 = .ok (.drowd 7 0xA5 255) := by decide
theorem witness_EveryWordIsLegalOrIllegal : ([0xFF, 0x00, 0x02] : List Byte).length ≠ 4 := by decide
theorem witness_LegalWordsAreTheTableRows : (⟨"SETB", 0x20000000, 0xFFFFFF00⟩ : OpcodeRow) ∈ opcodeTable ∧
    OpcodeRow.matches ⟨"SETB", 0x20000000, 0xFFFFFF00⟩ 0x200000FF = true ∧ decode 0x200000FF = .ok (.setb 0xFF) := by decide

/-- Both clauses, at the boundary values 255 and 256. -/
theorem witness_AssemblerGivesTheCommandWord : (∀ v ∈ (AsmLine.drowd 255 255 (.dev 255)).operands, v < 256) ∧
    (∃ v ∈ (AsmLine.setb 256).operands, 256 ≤ v) := by decide

theorem witness_StepRunsTheDecodedCommand : (fresh 2 [.cmd 0x10000000]).rstAsserted = false ∧
    (fresh 2 [.cmd 0x10000000]).hostAccess = some (.write 0 [0x00, 0x00, 0x00, 0x10]) ∧
    decodeBytes [0x00, 0x00, 0x00, 0x10] = .ok .init := by decide
theorem witness_IllegalWordSetsIllAlone : (ready 2 [.cmd 0x41000000]).rstAsserted = false ∧ (ready 2 [.cmd 0x41000000]).q = [] ∧
    legal 0x41000000 = false := by decide
theorem witness_BusyWriteSetsOvrAlone : (busy 2 [.cmd 0x41000000]).rstAsserted = false ∧ (busy 2 [.cmd 0x41000000]).q ≠ [] := by decide

/-- The reset premise, with a read of the window and with no read. -/
theorem witness_ResetCycleGivesResetValues : resetting.rstAsserted = true ∧
    resetting.hostAccess = some (.read (resetting.cfg.base + WindowReg.status.offset) 4) ∧
    { resetting with host := [] }.hostAccess = none := by decide
theorem witness_ResetMeetsTheInvariant : Config.standard.Valid := by decide

/-- A busy state with the invariant takes a step. -/
theorem witness_StepKeepsTheInvariant : (busy 2 []).Inv ∧ (nextState (step (busy 2 []))).isSome = true :=
  ⟨busy_inv _, by decide⟩

theorem witness_StatusReadsAndClears : allFlags.cfg.n < 256 ∧ (cfgOf 255 1).n < 256 ∧
    (ready 2 [.w1c 0x7C]).rstAsserted = false := by decide
theorem witness_PinsReadTheOutputRegisters : (ready 2 [.rdPins]).rstAsserted = false ∧
    (ready 2 [.bus (.write 0x8 (wordLanes 0xFF))]).rstAsserted = false := by decide

/-- One flag cleared by a STATUS write, one set by a CMD write. -/
theorem witness_FlagsAreSticky :
    after (·.flags.get .clamp) { allFlags with host := [.w1c 0x40] } = some false ∧ allFlags.flags.get .clamp = true ∧
    after (·.flags.get .ill) (ready 2 [.cmd 0]) = some true ∧ (ready 2 [.cmd 0]).flags.get .ill = false := by decide
theorem witness_NdevAlwaysReadsN : resetting.cfg.n < 256 ∧ (nextState (step resetting)).isSome = true := by decide

/-- Each clause: a narrow read, an unaligned write, and the highest register read and written. -/
theorem witness_OnlyAlignedWordsAreAdmitted : (ready 2 [.bus (.read 0xC 2)]).rstAsserted = false ∧ (ready 2 []).cfg.base % 16 = 0 ∧
    (ready 2 [.bus (.read 0xC 2)]).hostAccess = some (.read 0xC 2) ∧
    (ready 2 [.bus (.write 0xD [0, 0, 0, 0])]).hostAccess = some (.write 0xD [0, 0, 0, 0]) ∧
    (ready 2 [.bus (.read 0xC 4)]).hostAccess = some (.read 0xC 4) ∧
    (ready 2 [.bus (.write 0xC [0, 0, 0, 0])]).hostAccess = some (.write 0xC [0, 0, 0, 0]) := by decide
theorem witness_ReadsHaveNoSideEffect : (ready 2 [.bus (.read 0x8 4)]).rstAsserted = false ∧
    (ready 2 [.bus (.read 0x8 4)]).host = [.bus (.read ((ready 2 []).cfg.base + WindowReg.pins.offset) 4)] := by decide
theorem witness_WaitPollsUntilIdle : (busy 2 [.wait]).rstAsserted = false ∧ (busy 2 [.wait]).statusWord.getLsbD 0 = true ∧
    (ready 2 [.wait]).statusWord.getLsbD 0 = false := by decide

theorem witness_InitQueuesItsEvents : (fresh 2 []).q = [] ∧ (ready 2 []).q = [] := by decide
theorem witness_configured_idle : (ready 2 []).q = [] ∧ (ready 2 []).out.oe = true := by decide
theorem witness_SetbQueuesTheMaskedLevel : (ready 2 []).q = [] ∧ (ready 2 []).out.oe = true ∧
    afterExec (fun t => t.q.length) (.setb 0xFF) (ready 2 []) = some 98 := by decide
theorem witness_ClearQueuesEightFrames : (ready 2 []).q = [] ∧ (ready 2 []).out.oe = true ∧
    afterExec (fun t => t.q.head?) .clear (ready 2 []) = some (some ⟨.load, false⟩) := by decide

/-- Both clauses at rows 7 and 8, and the flag at devices N - 1 and N. -/
theorem witness_DrowdQueuesTheTargetFrame : (ready 2 []).q = [] ∧ (ready 2 []).out.oe = true ∧ 1 ≤ (ready 2 []).cfg.n ∧
    afterExec (fun t => (t.q.length, t.flags.clamp)) (.drowd 7 0xFF 1) (ready 2 []) = some (98, false) ∧
    afterExec (fun t => (t.q.length, t.flags.clamp)) (.drowd 7 0xFF 2) (ready 2 []) = some (98, true) ∧
    afterExec (fun t => (t.q.length, t.flags.drop)) (.drowd 8 0xFF 2) (ready 2 []) = some (0, true) := by decide
theorem witness_DrowdAllQueuesTheBroadcastFrame :
    afterExec (fun t => (t.q.length, t.flags.drop)) (.drowdAll 7 0xFF) (ready 2 []) = some (98, false) ∧
    afterExec (fun t => (t.q.length, t.flags.drop)) (.drowdAll 8 0xFF) (ready 2 []) = some (0, true) := by decide
theorem witness_WregQueuesTheTargetFrame : (ready 2 []).q = [] ∧ (ready 2 []).out.oe = true ∧ 1 ≤ (ready 2 []).cfg.n ∧
    afterExec (fun t => t.flags.clamp) (.wreg 0x01 0x81 1) (ready 2 []) = some false ∧
    afterExec (fun t => t.flags.clamp) (.wreg 0x01 0x81 2) (ready 2 []) = some true := by decide
theorem witness_WregAllQueuesTheBroadcastFrame : (ready 2 []).q = [] ∧ (ready 2 []).out.oe = true ∧
    afterExec (fun t => t.q.length) (.wregAll 0x00 0x55) (ready 2 []) = some 98 := by decide
theorem witness_CommandsTurnedAwaySetOneFlag : (busy 2 []).q ≠ [] ∧ (fresh 2 []).q = [] ∧ (fresh 2 []).out.oe = false ∧
    Instr.clear ≠ .init := by decide
theorem witness_CommandsChangeNothingElse : (busy 2 []).q ≠ [] ∧ (ready 2 []).out.oe = true ∧
    (∀ r p d, Instr.setb 0x0F ≠ .drowd r p d) ∧ (∀ a v d, Instr.setb 0x0F ≠ .wreg a v d) :=
  ⟨by decide, by decide, by simp, by simp⟩

/-- The last bit and the last slot of a frame of two pairs. -/
theorem witness_FrameEventsBitByBit : (31 < 16 * ([⟨0x0A, 0x0F⟩, ⟨0, 0⟩] : Frame).length ∧
    1 < ([⟨0x0A, 0x0F⟩, ⟨0, 0⟩] : Frame).length) ∧ (frameBits [⟨0x0A, 0x0F⟩])[15]? = some true ∧
    (frameBits [⟨0x0A, 0x0F⟩])[8]? = some false := by decide
theorem witness_EventCountsPerCommand : (fresh 1 []).q = [] ∧ (nextState (exec .init (fresh 1 []))).isSome = true ∧
    afterExec (fun t => t.q.length) (.wreg 0x01 0xFF 3) (ready 2 []) = some 98 ∧
    afterExec (fun t => t.q.length) (.drowdAll 7 0xFF) (ready 2 []) = some 98 := by decide
theorem witness_LineLevelsAfterFrame :
    (frameEvents [⟨0x0A, 0x0F⟩]).foldl Out.perform ⟨false, false, false, true⟩ = ⟨true, true, true, true⟩ := by decide

/-- The first and the last device of a chain of 4, and a chain of one. -/
theorem witness_FramesCarryThePairInItsSlot : 0 < 4 ∧ (targetFrame 4 1 2 0)[4 - 1 - 0]? = some ⟨1, 2⟩ ∧
    (targetFrame 4 1 2 3)[4 - 1 - 3]? = some ⟨1, 2⟩ ∧ targetFrame 1 1 2 0 = broadcastFrame 1 1 2 := by decide
theorem witness_OutOfRangeDeviceIsTheLastDevice : (ready 2 []).q = [] ∧ (ready 2 []).out.oe = true ∧ 1 ≤ (ready 2 []).cfg.n ∧
    (ready 2 []).cfg.n ≤ 2 := by decide

/-- Both clauses: C = 1 performs the event in this cycle, C = 2 counts. -/
theorem witness_BusyCycleTakesOneSequencerStep : (busy 1 []).rstAsserted = false ∧ (busy 1 []).t = (busy 1 []).cfg.eventCycles - 1 ∧
    { busy 1 [] with cfg := cfgOf 1 2 }.t ≠ (cfgOf 1 2).eventCycles - 1 ∧ (nextState (step (busy 1 []))).isSome = true := by decide
theorem witness_IdleCyclePerformsNoEvent : (ready 1 [.cmd 0x3F000000]).rstAsserted = false ∧ (ready 1 []).q = [] ∧
    after (·.q.length) (ready 1 [.cmd 0x48000055]) = some 50 ∧ after (·.q.length) (ready 1 []) = some 0 := by decide
theorem witness_AcceptedCommandIsPerformedWhole : (fresh 2 [.cmd (encode .init)]).Inv ∧ Instr.init.wellFormed = true ∧
    (fresh 2 [.cmd (encode .init)]).q = [] ∧ (fresh 2 [.cmd (encode .init)]).rst = [] ∧
    (nextState (exec .init (fresh 2 [.cmd (encode .init)]))).isSome = true :=
  ⟨fresh_inv _, by decide, by decide, by decide, by decide⟩

/-- A command with events and one without. -/
theorem witness_NoStaleBusyWindow : (ready 1 [.cmd (encode (.drowdAll 0 0)), .rdStatus]).q = [] ∧
    (ready 1 [.cmd (encode (.drowdAll 0 0)), .rdStatus]).rst = [] ∧
    (nextState (runFor 2 (ready 1 [.cmd (encode (.drowdAll 0 0)), .rdStatus]))).map (fun t => t.reads.map (·.value)) =
      some [0x00010003] ∧
    (nextState (runFor 2 (ready 1 [.cmd (encode (.drowdAll 8 0)), .rdStatus]))).map (fun t => t.reads.map (·.value)) =
      some [0x00010022] := by decide
theorem witness_OnlyResetClearsOutputEnable : ({ busy 2 [] with rst := [true] } : State).out.oe = true ∧
    after (·.out.oe) { busy 2 [] with rst := [true] } = some false ∧ (busy 2 []).Inv := ⟨by decide, by decide, busy_inv _⟩
theorem witness_TraceOnlyGrows : (nextState (step (busy 2 []))).isSome = true ∧ (nextState (step resetting)).isSome = true := by decide
theorem witness_CountersRealiseTheEventList : (workDrowd (cfgOf 2 1) 0 0xFF (.dev 1)).frames ≠ [] ∧
    ∀ f ∈ (workDrowd (cfgOf 2 1) 0 0xFF (.dev 1)).frames, f ≠ [] := by decide

/-- Every clause at its boundary: address 0, the first and the last row, a named register, and an undefined address. -/
theorem witness_RegisterWriteByAddress : Config.standard.Valid ∧ (0x01 : Byte).toNat = (0 : Fin 8).val + 1 ∧
    (0x08 : Byte).toNat = (7 : Fin 8).val + 1 ∧ (0x09 : Byte) = Config.standard.regDecode ∧ 8 < (0x0D : Byte).toNat ∧
    (0x0D : Byte) ∉ Config.standard.namedRegs ∧ (0xFF : Byte) ∉ Config.standard.namedRegs := by decide
theorem witness_ClockEdgeShiftsEveryDevice : loaded.Shaped 3 ∧ (⟨true, false, false, true⟩ : Out).oe = true ∧
    (⟨true, false, false, true⟩ : Out).clk = false := by decide

/-- A commit after 16 N edges, and after another count. -/
theorem witness_LoadEdgesCommit : loaded.ec = some (16 * (cfgOf 3 1).n) ∧ loaded.ec ≠ some (16 * (cfgOf 2 1).n) ∧
    (Chain.unknown 3).ec ≠ some (16 * (cfgOf 3 1).n) := by decide
theorem witness_ShiftRegisterHoldsThePairSent : Device.unknown.sr.length = 16 ∧ none ∈ Device.unknown.sr ∧
    none ∉ (pairBits ⟨0x06, 0x3C⟩).map some := by decide
theorem witness_UndrivenLinesMakeEverythingUnknown : (fresh 2 []).out.oe = false ∧ (nextState (step (fresh 2 []))).isSome = true ∧
    after (·.out.oe) resetting = some false := by decide

/-- A driven cycle that writes the level a line has. -/
theorem witness_NoLevelChangeNoTransition : (ready 1 []).out.oe = true ∧
    after (·.out) { ready 1 [] with q := [⟨.clk, true⟩] } = some (ready 1 []).out := by decide
theorem witness_FrameWritesEachDeviceItsSlot : loaded.Shaped 3 ∧
    ([⟨0, 0⟩, ⟨0x06, 0x3C⟩, ⟨0, 0⟩] : Frame).length = (cfgOf 3 1).n ∧ (⟨false, true, true, true⟩ : Out).load = true := by decide

theorem witness_InitMakesEveryDeviceKnown : (fresh 2 [.cmd 0x10000000]).Inv ∧ (fresh 2 [.cmd 0x10000000]).q = [] ∧
    (fresh 2 [.cmd 0x10000000]).rst = [] := ⟨fresh_inv _, by decide, by decide⟩
theorem witness_SetbSetsEveryIntensity : (ready 2 [.cmd (encode (.setb 0x37))]).ReadyFor (.setb 0x37) := readyFor _
theorem witness_ClearZeroesEveryRow : (ready 2 [.cmd (encode .clear)]).ReadyFor .clear := readyFor _
theorem witness_DrowdSetsOneRowOfOneDevice : (ready 2 [.cmd (encode (.drowd 7 0xFF 255))]).ReadyFor (.drowd 7 0xFF 255) ∧
    (ready 2 [.cmd (encode (.drowd 0 0xFF 1))]).ReadyFor (.drowd 0 0xFF 1) ∧ (0 < 8 ∧ 7 < 8 ∧ 1 < 256 ∧ 255 < 256) :=
  ⟨readyFor _, readyFor _, by decide⟩
theorem witness_DrowdAllSetsOneRowOfEveryDevice : (ready 2 [.cmd (encode (.drowdAll 7 0xFF))]).ReadyFor (.drowdAll 7 0xFF) :=
  readyFor _
theorem witness_DroppedRowEmitsNothing : (ready 2 [.cmd (encode (.drowd 8 0xFF 255))]).ReadyFor (.drowd 8 0xFF 255) ∧
    (ready 2 [.cmd (encode (.drowdAll 255 0xFF))]).ReadyFor (.drowdAll 255 0xFF) := ⟨readyFor _, readyFor _⟩
theorem witness_WregWritesOneDevice : (ready 2 [.cmd (encode (.wreg 0x0D 0x55 1))]).ReadyFor (.wreg 0x0D 0x55 1) ∧
    (ready 2 [.cmd (encode (.wreg 0x0C 0x00 255))]).ReadyFor (.wreg 0x0C 0x00 255) ∧ (1 < 256 ∧ 255 < 256) :=
  ⟨readyFor _, readyFor _, by decide⟩
theorem witness_WregAllWritesEveryDevice : (ready 2 [.cmd (encode (.wregAll 0x00 0x55))]).ReadyFor (.wregAll 0x00 0x55) := readyFor _

end Sys2Proof.Tests
end

section
/-! SUPPORT. Every step keeps `State.Inv`: the rules of one event and of a reset cycle it rests on, the clauses that follow from
the frame of a step, and one lemma for each way a step can go. -/

namespace Sys2Proof.Machine

/-! ### Facts about events and a reset cycle -/

/-- Only an event on the output enable writes it (R7, R127). -/
theorem Out.perform_oe (o : Out) (e : Event) : (o.perform e).oe = if e.line = .oe then e.level else o.oe := by
  unfold Out.perform
  cases e.line <;> rfl

/-- After an event that sets OE, or any event but a clearing of OE while OE = 1, the lines are driven (R127). -/
theorem Out.perform_oe_eq_true {o : Out} {e : Event} (hset : e.line = .oe → e.level = true)
    (hkeep : o.oe = true ∨ e.line = .oe) : (o.perform e).oe = true := by
  rw [Out.perform_oe]
  split
  case isTrue hl => exact hset hl
  case isFalse hl => exact hkeep.resolve_right hl

/-- The first event of a command with setup events sets OE (R181). -/
theorem Work.head?_events_of_setup {w : Work} (h : w.setup = true) : w.events.head? = some ⟨.oe, true⟩ := by
  simp [Work.events, h, setupEvents]

/-- INIT's first event sets OE (R180, R181). -/
theorem workOf_head?_events {cfg : Config} {i : Instr} (h : isInit i = true) :
    (workOf cfg i).events.head? = some ⟨.oe, true⟩ :=
  Work.head?_events_of_setup ((workOf_setup cfg i).trans h)

/-- A reset cycle gives the output registers, the queue and the slot counter their reset values (R270). -/
theorem step_reset {s t : State} (h : step s = .next t) (hr : s.rstAsserted = true) :
    t.out = Out.atReset ∧ t.q = [] ∧ t.t = 0 := by
  rcases step_next h with ⟨-, rfl⟩ | ⟨hr', -⟩
  · exact ⟨rfl, rfl, rfl⟩
  · rw [hr] at hr'
    contradiction

/-! ### The invariant, one way of a step after another -/

namespace State.Inv

variable {s t : State}

/-- The legal parameters, the shape of the chain and the chain of undriven lines follow from the frame of any step (R272, R210);
the invariant after it turns on the queue, the slot counter and the output registers alone. -/
theorem of_step (hs : s.Inv) (h : step s = .next t) (slot : t.t < s.cfg.eventCycles)
    (oeOnly : ∀ e ∈ t.q, e.line = .oe → e.level = true)
    (gated : t.out.oe = false → t.q = [] ∨ t.q.head? = some ⟨.oe, true⟩)
    (settles : (t.q.foldl Out.perform t.out).load = true) : t.Inv where
  cfg := by rw [step_cfg h]; exact hs.cfg
  slot := by rw [step_cfg h]; exact slot
  chain := by rw [step_cfg h, step_chain h]; exact Chain.observe_shaped hs.chain
  oeOnly := oeOnly
  undriven ho := by rw [step_cfg h, step_chain h]; exact Chain.observe_undriven (.inr ho)
  gated := gated
  settles := settles

theorem eventCycles_pos (hs : s.Inv) : 0 < s.cfg.eventCycles := by
  obtain ⟨-, -, hc, -⟩ := hs.cfg
  exact hc

/-- LOAD is high while nothing is queued (R31, R126). -/
theorem load_of_idle (hs : s.Inv) (hq : s.q = []) : s.out.load = true := by
  simpa [hq] using hs.settles

/-- While OE = 0 the event at the head of the queue is the one that sets OE (R242). -/
theorem driven_or_head_line (hs : s.Inv) {e : Event} {rest : List Event} (hq : s.q = e :: rest) :
    s.out.oe = true ∨ e.line = .oe := by
  cases ho : s.out.oe with
  | true => exact .inl rfl
  | false =>
    have he : e = ⟨.oe, true⟩ := by simpa [hq] using hs.gated ho
    exact .inr (congrArg Event.line he)

/-- An empty queue with LOAD high meets the invariant, with T within its slot. -/
theorem of_step_idle (hs : s.Inv) (h : step s = .next t) (slot : t.t < s.cfg.eventCycles) (hq : t.q = [])
    (hl : t.out.load = true) : t.Inv :=
  hs.of_step h slot (by simp [hq]) (fun _ => .inl hq) (by simpa [hq] using hl)

/-- A reset cycle gives a state that meets the invariant (R270). -/
theorem step_of_reset (hs : s.Inv) (h : step s = .next t) (hr : s.rstAsserted = true) : t.Inv := by
  obtain ⟨ho, hq, ht⟩ := step_reset h hr
  exact hs.of_step_idle h (ht ▸ hs.eventCycles_pos) hq (ho ▸ rfl)

/-- A command accepted in an idle cycle queues no clearing of OE, ends with LOAD high, and starts by setting OE if OE = 0 (R97). -/
theorem step_of_accepted (hs : s.Inv) (h : step s = .next t) {i : Instr} (hq : s.q = []) (ho : t.out = s.out)
    (hc : isInit i = true ∨ s.out.oe = true) (htq : t.q = (workOf s.cfg i).events) (htt : t.t = 0) : t.Inv := by
  refine hs.of_step h (htt ▸ hs.eventCycles_pos) ?oeOnly ?gated ?settles
  case oeOnly => rw [htq]; exact fun _ => Work.events_oe
  case gated =>
    intro hoe
    rw [ho] at hoe
    have hinit : isInit i = true := hc.resolve_right (by simp [hoe])
    exact .inr (htq ▸ workOf_head?_events hinit)
  case settles => rw [htq, ho]; exact Work.foldl_events_load _ _ (hs.load_of_idle hq)

/-- The performance of the queue's first event leaves the lines driven and the rest of the queue as the invariant has it (R128). -/
theorem step_of_performed (hs : s.Inv) (h : step s = .next t) {e : Event} {rest : List Event} (hq : s.q = e :: rest)
    (ho : t.out = s.out.perform e) (htq : t.q = rest) (htt : t.t = 0) : t.Inv := by
  have hset : ∀ e' ∈ e :: rest, e'.line = .oe → e'.level = true := hq ▸ hs.oeOnly
  have hdriven : t.out.oe = true := by
    rw [ho]
    exact Out.perform_oe_eq_true (hset e List.mem_cons_self) (hs.driven_or_head_line hq)
  refine hs.of_step h (htt ▸ hs.eventCycles_pos) ?oeOnly ?gated ?settles
  case oeOnly => rw [htq]; exact fun e' he' => hset e' (List.mem_cons_of_mem e he')
  case gated => simp [hdriven]
  case settles => simpa [hq, ho, htq] using hs.settles

/-- A cycle within an event's slot counts T up to C - 1 at most and leaves the queue and the lines alone (R128). -/
theorem step_of_counted (hs : s.Inv) (h : step s = .next t) (ht : s.t ≠ s.cfg.eventCycles - 1) (ho : t.out = s.out)
    (htq : t.q = s.q) (htt : t.t = s.t + 1) : t.Inv := by
  have slot : t.t < s.cfg.eventCycles := by
    have := hs.slot
    omega
  exact hs.of_step h slot (htq ▸ hs.oeOnly) (by rw [ho, htq]; exact hs.gated) (by rw [ho, htq]; exact hs.settles)

end State.Inv

/-- Every step keeps the invariant, along the ways `step_machine` lists and a reset cycle. -/
theorem step_inv {s t : State} (hs : s.Inv) (h : step s = .next t) : t.Inv := by
  cases hr : s.rstAsserted with
  | true => exact hs.step_of_reset h hr
  | false =>
    rcases step_machine h hr with ⟨hq, ho, -, ⟨htq, htt⟩ | ⟨i, hc, htq, htt⟩⟩ |
      ⟨e, rest, hq, ⟨-, ho, htq, htt, -⟩ | ⟨ht, ho, htq, htt, -⟩⟩
    · exact hs.of_step_idle h (htt ▸ hs.slot) htq (ho ▸ hs.load_of_idle hq)
    · exact hs.step_of_accepted h hq ho hc htq htt
    · exact hs.step_of_performed h hq ho htq htt
    · exact hs.step_of_counted h ht ho htq htt

/-- Settles O13: the parameters and the chain follow from the frame of a step, and the other clauses hold along each way a step
can go (`step_inv`). That OE = 0 at the end of the cycle is enough for the unknown chain is the model's reading of R219
(log 5). -/
theorem stepKeepsTheInvariant : Obligations.StepKeepsTheInvariant :=
  fun _ _ => step_inv

end Sys2Proof.Machine
end

section
/-! SUPPORT. STATUS and PINS read bit by bit, the lanes of a word, the step of a host that makes one access to the window, the
power-on state, and what a step does to the flags and the trace; and the statements about the state they settle. -/

namespace Sys2Proof

/-- Four bytes are the lanes of the word they make (R64). -/
theorem wordLanes_of_wordOfLanes {bytes : List Byte} {w : Word} (h : wordOfLanes bytes = some w) : wordLanes w = bytes := by
  unfold wordOfLanes at h
  split at h
  case h_2 => contradiction
  case h_1 b0 b1 b2 b3 =>
    have hw : b3 ++ (b2 ++ (b1 ++ b0)) = w := Option.some.inj h
    subst hw
    have lane0 : (b3 ++ (b2 ++ (b1 ++ b0))).extractLsb' 0 8 = b0 := by
      rw [BitVec.extractLsb'_append_eq_of_add_le (by omega), BitVec.extractLsb'_append_eq_of_add_le (by omega),
        BitVec.extractLsb'_append_eq_right]
    have lane1 : (b3 ++ (b2 ++ (b1 ++ b0))).extractLsb' 8 8 = b1 := by
      rw [BitVec.extractLsb'_append_eq_of_add_le (by omega), BitVec.extractLsb'_append_eq_of_add_le (by omega),
        BitVec.extractLsb'_append_eq_left]
    have lane2 : (b3 ++ (b2 ++ (b1 ++ b0))).extractLsb' 16 8 = b2 := by
      rw [BitVec.extractLsb'_append_eq_of_add_le (by omega), BitVec.extractLsb'_append_eq_left]
    have lane3 : (b3 ++ (b2 ++ (b1 ++ b0))).extractLsb' 24 8 = b3 := BitVec.extractLsb'_append_eq_left
    exact congr (congrArg _ lane0) (congr (congrArg _ lane1) (congr (congrArg _ lane2) (congrArg (· :: []) lane3)))

end Sys2Proof

namespace Sys2Proof.Machine

/-! ### STATUS and PINS, bit by bit (R23, R25, R26) -/

/-- Every bit of STATUS (R23): NDEV from bit 16 on, and below it BUSY, CFG and the flags. -/
theorem State.getLsbD_statusWord (s : State) (b : Nat) :
    s.statusWord.getLsbD b =
      if 16 ≤ b then (BitVec.ofNat 8 s.cfg.n).getLsbD (b - 16)
      else if b = 0 then s.busy else if b = 1 then s.configured else if b = 2 then s.flags.ovr
      else if b = 3 then s.flags.ill else if b = 4 then s.flags.ncfg else if b = 5 then s.flags.drop
      else if b = 6 then s.flags.clamp else false := by
  have h : s.statusWord = ((0 : BitVec 8) ++ (BitVec.ofNat 8 s.cfg.n ++ ((0 : BitVec 9) ++ (bit s.flags.clamp ++
    (bit s.flags.drop ++ (bit s.flags.ncfg ++ (bit s.flags.ill ++ (bit s.flags.ovr ++ (bit s.configured ++ bit s.busy)))))))) :
      BitVec (8 + (8 + (9 + (1 + (1 + (1 + (1 + (1 + (1 + 1)))))))))) := rfl
  rw [h]
  simp only [BitVec.getLsbD_append, bit, BitVec.getLsbD_ofBool]
  match b with
  | 0 | 1 | 2 | 3 | 4 | 5 | 6 => simp
  | b + 7 =>
    by_cases h9 : 9 ≤ b
    · have hlow : ¬ b + 7 < 16 := by omega
      have hndev (hb : (BitVec.ofNat 8 s.cfg.n).getLsbD (b - 9) = true) : b + 7 < 24 := by
        have := BitVec.lt_of_getLsbD hb
        omega
      simpa [h9, hlow] using hndev
    · have hlow : b + 7 < 16 := by omega
      simp [h9, hlow]

/-- Every flag is at its bit of STATUS (R23, R240). -/
theorem State.getLsbD_statusWord_statusBit (s : State) (f : Flag) : s.statusWord.getLsbD f.statusBit = s.flags.get f := by
  cases f <;> exact s.getLsbD_statusWord _

/-- Bits 15:7 of STATUS are reserved zeros (R23). -/
theorem State.getLsbD_statusWord_low_reserved (s : State) {b : Nat} (h7 : 7 ≤ b) (h16 : b < 16) :
    s.statusWord.getLsbD b = false := by
  interval_cases b <;> exact s.getLsbD_statusWord _

/-- Bits 31:24 of STATUS are reserved zeros (R23). -/
theorem State.getLsbD_statusWord_high_reserved (s : State) {b : Nat} (h : 24 ≤ b) : s.statusWord.getLsbD b = false := by
  rw [State.getLsbD_statusWord, if_pos (by omega), BitVec.getLsbD_of_ge _ _ (by omega)]

/-- NDEV is N, which fits its field (R25). -/
theorem State.ndev_statusWord {s : State} (h : s.cfg.n < 256) : (s.statusWord.extractLsb' 16 8).toNat = s.cfg.n := by
  have hfield : s.statusWord.extractLsb' 16 8 = BitVec.ofNat 8 s.cfg.n :=
    BitVec.eq_of_getLsbD_eq fun b hb => by simp [State.getLsbD_statusWord, hb]
  rw [hfield, BitVec.toNat_ofNat, Nat.mod_eq_of_lt h]

/-- STATUS after power-on (R23, R31). -/
theorem State.statusWord_resetWith {cfg : Config} (h : cfg.n < 256) :
    (State.resetWith cfg).statusWord = BitVec.ofNat 32 (cfg.n * 65536) := by
  have hn (k : Nat) : (BitVec.ofNat 8 cfg.n).getLsbD k = cfg.n.testBit k := by
    rw [← BitVec.testBit_toNat, BitVec.toNat_ofNat, Nat.mod_eq_of_lt h]
  refine BitVec.eq_of_getLsbD_eq fun b hb => ?_
  have hword : (BitVec.ofNat 32 (cfg.n * 65536)).getLsbD b = (decide (16 ≤ b) && cfg.n.testBit (b - 16)) := by
    rw [BitVec.getLsbD_ofNat, Nat.testBit_mul_two_pow cfg.n b 16]
    simp [hb]
  rw [hword, State.getLsbD_statusWord]
  simp [State.busy, State.configured, State.resetWith, Out.atReset, Flags.zero, hn]

/-- Every bit of PINS (R26). -/
theorem State.getLsbD_pinsWord (s : State) (b : Nat) :
    s.pinsWord.getLsbD b =
      if b = 0 then s.out.data else if b = 1 then s.out.clk else if b = 2 then s.out.load else if b = 3 then s.out.oe
      else false := by
  have h : s.pinsWord = ((0 : BitVec 28) ++ (bit s.out.oe ++ (bit s.out.load ++ (bit s.out.clk ++ bit s.out.data))) :
      BitVec (28 + (1 + (1 + (1 + 1))))) := rfl
  rw [h]
  simp only [BitVec.getLsbD_append, bit, BitVec.getLsbD_ofBool]
  match b with
  | 0 | 1 | 2 | 3 => simp
  | b + 4 => simp

/-- Bits 31:4 of PINS are reserved zeros (R26). -/
theorem State.getLsbD_pinsWord_reserved (s : State) {b : Nat} (h : 4 ≤ b) : s.pinsWord.getLsbD b = false := by
  have h0 : b ≠ 0 := by omega
  have h1 : b ≠ 1 := by omega
  have h2 : b ≠ 2 := by omega
  have h3 : b ≠ 3 := by omega
  simp [State.getLsbD_pinsWord, h0, h1, h2, h3]

/-! ### The step of one host operation -/

/-- A cycle without reset whose host access answers a state, with an operation that is no `wait` (R63). -/
theorem step_of_hostCycle {s a : State} {op : HostOp} {rest : List HostOp} (hr : s.rstAsserted = false)
    (hh : s.host = op :: rest) (hop : op ≠ .wait) (ha : s.hostCycle = .next a) :
    step s = .next ((s.passCycle a).takeInputs rest) := by
  have hrest : s.hostRest = rest := by simp [State.hostRest, State.hostOp, hh, hop]
  simp [step, hr, ha, hrest]

/-- A read of a register of the window returns its value (R61). -/
theorem State.access_read (s : State) (r : WindowReg) :
    s.access (.read (s.cfg.base + r.offset) 4) = .next (s.returnRead (s.cfg.base + r.offset) (s.readWindow r)) := by
  simp [State.access]

/-- A write of a word to a register of the window (R61). -/
theorem State.access_write (s : State) (r : WindowReg) (w : Word) :
    s.access (.write (s.cfg.base + r.offset) (wordLanes w)) = s.writeWindow r w := by
  simp [State.access]

/-- The access of a cycle decides what the host does in it (R63). -/
theorem State.hostCycle_of_access {s : State} {a : Access} (h : s.hostAccess = some a) : s.hostCycle = s.access a := by
  simp [State.hostCycle, h]

theorem State.hostAccess_of_host {s : State} {op : HostOp} {rest : List HostOp} (h : s.host = op :: rest) :
    s.hostAccess = op.access s.cfg.base := by
  simp [State.hostAccess, State.hostOp, h]

theorem State.busy_with_host (s : State) (h : List HostOp) : { s with host := h }.busy = s.busy := rfl

/-- The sequencer neither reads nor writes the host's operations. -/
theorem State.sequence_with_host (a : State) (h : List HostOp) :
    { a with host := h }.sequence = { a.sequence with host := h } := by
  unfold State.sequence
  dsimp only
  split
  · rfl
  · split <;> rfl

/-- The sequencer neither reads nor writes the flags. -/
theorem State.sequence_with_flags (a : State) (f : Flags) :
    { a with flags := f }.sequence = { a.sequence with flags := f } := by
  unfold State.sequence
  dsimp only
  split
  · rfl
  · split <;> rfl

/-- What passes beside the access leaves the flags the access left, and depends on none of them (R245). -/
theorem State.passCycle_with_flags (s a : State) (f : Flags) :
    s.passCycle { a with flags := f } = { s.passCycle a with flags := f } := by
  unfold State.passCycle
  rw [State.sequence_with_flags]
  cases s.busy <;> rfl

/-- A cycle without reset and without an access. -/
theorem step_idle {s : State} (hr : s.rstAsserted = false) (rest : List HostOp) :
    step { s with host := .idle :: rest } = .next ((s.passCycle s).takeInputs rest) := by
  have hpass : { s with host := .idle :: rest }.passCycle { s with host := .idle :: rest } =
      { s.passCycle s with host := .idle :: rest } := by
    unfold State.passCycle
    rw [State.sequence_with_host, s.busy_with_host]
    cases s.busy <;> rfl
  rw [step_of_hostCycle (s := { s with host := .idle :: rest }) (op := .idle) hr rfl (by simp) rfl, hpass]
  rfl

/-! ### Power-on (R31) -/

/-- The machine after power-on meets the invariant. -/
theorem State.resetWith_inv {cfg : Config} (h : cfg.Valid) : (State.resetWith cfg).Inv where
  cfg := h
  slot := by
    obtain ⟨-, -, hc, -⟩ := h
    exact hc
  chain := Chain.unknown_shaped cfg.n
  oeOnly := by simp [State.resetWith]
  undriven _ := rfl
  gated _ := .inl rfl
  settles := rfl

/-- Every device of the unknown chain has an unknown shift register and unknown registers (R218). -/
theorem Chain.mem_devices_unknown {n : Nat} {d : Device} (h : d ∈ (Chain.unknown n).devices) : d = Device.unknown :=
  (List.mem_replicate.1 h).2

/-! ### The flags over a step (R24) -/

/-- Acceptance of a legal word only sets flags (R97). -/
theorem State.acceptWork_flags (s : State) (i : Bool) (w : Work) : ∃ fs, (s.acceptWork i w).flags = s.flags.setAll fs := by
  rcases s.acceptWork_cases i w with ⟨-, h⟩ | ⟨-, -, -, h⟩ | ⟨-, -, -, h⟩ | ⟨-, -, -, h⟩ <;> rw [h]
  · exact ⟨[.ovr], rfl⟩
  · exact ⟨[.ncfg], rfl⟩
  · exact ⟨w.flags, rfl⟩
  · exact ⟨w.flags, rfl⟩

/-- A host access leaves the flags alone, or sets some by a write of a word to CMD, or clears those of a word written to STATUS. -/
theorem State.access_flags {s a : State} {acc : Access} (h : s.access acc = .next a) :
    a.flags = s.flags ∨
    (∃ w fs, acc = .write s.cfg.base (wordLanes w) ∧ a.flags = s.flags.setAll fs) ∨
    (∃ w, acc = .write (s.cfg.base + 0x4) (wordLanes w) ∧ a.flags = s.flags.writeOneToClear w) := by
  rcases State.access_cases h with ⟨_, _, _, -, -, rfl⟩ | ⟨addr, bytes, w, rfl, hhit, hw, hcmd⟩ |
    ⟨addr, bytes, w, rfl, hhit, hw, rfl⟩ | ⟨_, _, _, -, -, -, rfl⟩
  · exact .inl rfl
  · obtain ⟨-, rfl⟩ := windowHit_eq_reg hhit
    rw [← wordLanes_of_wordOfLanes hw]
    refine .inr (.inl ⟨w, ?_⟩)
    rcases hcmd with ⟨i, -, rfl⟩ | ⟨-, rfl⟩
    · obtain ⟨fs, hfs⟩ := s.acceptWork_flags (isInit i) (workOf s.cfg i)
      exact ⟨fs, rfl, hfs⟩
    · exact ⟨_, rfl, by rw [s.acceptIllegal_eq, State.discardWith_flags, ← Flags.setAll_singleton]⟩
  · obtain ⟨-, rfl⟩ := windowHit_eq_reg hhit
    rw [← wordLanes_of_wordOfLanes hw]
    exact .inr (.inr ⟨w, rfl, rfl⟩)
  · exact .inl rfl

/-- The flags over a cycle without reset: kept, some set by a CMD write, or some cleared by a STATUS write. -/
theorem step_flags {s t : State} (h : step s = .next t) (hr : s.rstAsserted = false) :
    t.flags = s.flags ∨
    (∃ w fs, s.hostAccess = some (.write s.cfg.base (wordLanes w)) ∧ t.flags = s.flags.setAll fs) ∨
    (∃ w, s.hostAccess = some (.write (s.cfg.base + 0x4) (wordLanes w)) ∧ t.flags = s.flags.writeOneToClear w) := by
  rcases step_next h with ⟨hr', -⟩ | ⟨-, a, ha, rfl⟩
  · simp [hr] at hr'
  simp only [State.takeInputs_flags, State.passCycle_flags]
  cases hacc : s.hostAccess with
  | none =>
    have has : s = a := by simpa [State.hostCycle, hacc] using ha
    exact .inl (has ▸ rfl)
  | some acc =>
    rw [State.hostCycle_of_access hacc] at ha
    simpa using State.access_flags ha

/-- A reset cycle clears every flag (R270). -/
theorem step_reset_flags {s t : State} (h : step s = .next t) (hr : s.rstAsserted = true) : t.flags = Flags.zero := by
  rcases step_next h with ⟨-, rfl⟩ | ⟨hr', -⟩
  · rfl
  · simp [hr] at hr'

/-- A reset cycle appends its marker to the trace (R30, R270). -/
theorem step_reset_trace {s t : State} (h : step s = .next t) (hr : s.rstAsserted = true) :
    t.trace = s.trace ++ [.reset s.cycle] := by
  rcases step_next h with ⟨-, rfl⟩ | ⟨hr', -⟩
  · obtain ⟨rs, e⟩ := s.hostInReset_eq
    simp [e]
  · simp [hr] at hr'

/-! ### The statements -/

/-- Settles O14: every bit of STATUS by `getLsbD_statusWord`; the write differs from an idle cycle in the flags alone, since nothing
else that passes in the cycle reads or writes them. -/
theorem statusReadsAndClears : Obligations.StatusReadsAndClears := by
  refine ⟨fun s hn => ?layout, fun s v rest hr hh => ?clear, fun cfg => State.statusWord_resetWith⟩
  case layout =>
    exact ⟨s.getLsbD_statusWord 0, s.getLsbD_statusWord 1, s.getLsbD_statusWord_statusBit,
      fun _ => s.getLsbD_statusWord_low_reserved, State.ndev_statusWord hn, fun _ h _ => s.getLsbD_statusWord_high_reserved h⟩
  case clear =>
    have ha : s.hostCycle = .next { s with flags := s.flags.writeOneToClear v } := by
      rw [State.hostCycle_of_access (State.hostAccess_of_host hh)]
      exact s.access_write .status v
    refine ⟨_, _, step_of_hostCycle hr hh (by simp) ha, step_idle hr rest, ?_, fun f => by simp⟩
    rw [State.passCycle_with_flags]
    rfl

/-- Settles O15: every bit of PINS by `getLsbD_pinsWord`; the read returns it, and the write leaves the state of an idle cycle. -/
theorem pinsReadTheOutputRegisters : Obligations.PinsReadTheOutputRegisters := by
  refine ⟨fun s => ?layout, fun s rest hr hh => ?read, fun s w rest hr hh => ?write⟩
  case layout =>
    exact ⟨s.getLsbD_pinsWord 0, s.getLsbD_pinsWord 1, s.getLsbD_pinsWord 2, s.getLsbD_pinsWord 3,
      fun _ => s.getLsbD_pinsWord_reserved⟩
  case read =>
    have ha : s.hostCycle = .next (s.returnRead (s.cfg.base + 0x8) s.pinsWord) := by
      rw [State.hostCycle_of_access (State.hostAccess_of_host hh)]
      exact s.access_read .pins
    exact ⟨_, step_of_hostCycle hr hh (by simp) ha, by simp⟩
  case write =>
    have ha : s.hostCycle = .next s := by
      rw [State.hostCycle_of_access (State.hostAccess_of_host hh)]
      exact s.access_write .pins w
    rw [step_of_hostCycle hr hh (by simp) ha, step_idle hr rest]

/-- Settles O16, from the three things a cycle without reset can do to the flags (`step_flags`) and the reset values. -/
theorem flagsAreSticky : Obligations.FlagsAreSticky := by
  refine ⟨fun s f g => by simp, fun s t f h => ?_⟩
  cases hr : s.rstAsserted with
  | true => simp [step_reset_flags h hr]
  | false =>
    rcases step_flags h hr with hk | ⟨w, fs, hw, hset⟩ | ⟨w, hw, hclear⟩
    · exact ⟨fun h1 h0 => by simp [hk, h1] at h0, fun h0 h1 => by simp [hk, h0] at h1⟩
    · exact ⟨fun h1 h0 => by simp [hset, h1] at h0, fun _ _ => ⟨rfl, w, hw⟩⟩
    · exact ⟨fun h1 h0 => .inr ⟨w, hw, by simpa [hclear, h1] using h0⟩, fun h0 h1 => by simp [hclear, h0] at h1⟩

/-- Settles O17: a step keeps the parameters (`step_cfg`), and NDEV reads N wherever N fits its field. -/
theorem ndevAlwaysReadsN : Obligations.NdevAlwaysReadsN := fun s t hn h =>
  have hcfg : t.cfg = s.cfg := step_cfg h
  ⟨hcfg, State.ndev_statusWord hn, hcfg ▸ State.ndev_statusWord (hcfg ▸ hn)⟩

/-- Settles O40, along the ways a step can go (`step_machine`, `step_reset_trace`). -/
theorem traceOnlyGrows : Obligations.TraceOnlyGrows := by
  intro s t h
  cases hr : s.rstAsserted with
  | true => exact .inr (.inr ⟨rfl, step_reset_trace h hr⟩)
  | false =>
    rcases step_machine h hr with ⟨-, -, hidle, -⟩ | ⟨e, rest, hq, ⟨-, -, -, -, hemit⟩ | ⟨-, -, -, -, hcount⟩⟩
    · exact .inl hidle
    · exact .inr (.inl ⟨e, by simp [hq], hemit⟩)
    · exact .inl hcount

/-- Settles O10, field by field from the definition of the power-on state. -/
theorem powerOnValues : Obligations.PowerOnValues := fun cfg =>
  ⟨rfl, rfl, rfl, Flags.get_zero, rfl, rfl, rfl, (Chain.unknown_shaped cfg.n).1,
    fun _ hd => Chain.mem_devices_unknown hd ▸ ⟨rfl, rfl⟩⟩

/-- Settles O12; the parameters of `State.reset` are the model's choice (log 1), and legal. -/
theorem resetMeetsTheInvariant : Obligations.ResetMeetsTheInvariant :=
  ⟨fun _ => State.resetWith_inv, State.resetWith_inv (by decide)⟩

end Sys2Proof.Machine
end

section
/-! SUPPORT. The counters of R29 perform the events of a command. What the counters still have to perform is followed from the
first event on: one bit, the bits of a byte, the slots of a frame, the frames of a program, and INIT's setup events. -/

namespace Sys2Proof.Machine

/-! ### Bits of a byte, and the parts of a list from an index on -/

/-- Bits `k - 1` down to 0 of a byte. -/
def bitsBelow (v : Byte) : Nat → List Bool
  | 0 => []
  | k + 1 => v.getLsbD k :: bitsBelow v k

theorem bitsBelow_eight (v : Byte) : bitsBelow v 8 = byteBits v := rfl

theorem drop_succ_of_drop_eq_cons {α : Type} {l rest : List α} {n : Nat} {x : α} (h : l.drop n = x :: rest) :
    l.drop (n + 1) = rest := by
  rw [← List.tail_drop, h, List.tail_cons]

theorem getD_of_drop_eq_cons {α : Type} {l rest : List α} {n : Nat} {x d : α} (h : l.drop n = x :: rest) :
    l.getD n d = x := by
  rw [List.getD_eq_getElem?_getD, ← List.head?_drop, h, List.head?_cons, Option.getD_some]

theorem succ_lt_length_iff_of_drop_eq_cons {α : Type} {l rest : List α} {n : Nat} {x : α} (h : l.drop n = x :: rest) :
    n + 1 < l.length ↔ rest ≠ [] := by
  rw [← drop_succ_of_drop_eq_cons h, ne_eq, List.drop_eq_nil_iff]
  omega

namespace Counters

/-! ### What the counters still have to perform -/

/-- The counters perform these events in order, one a slot, and are then done. -/
def Performs (c : Option Counters) (es : List Event) : Prop := run es.length c = (es, none)

theorem performs_none : Performs none [] := rfl

/-- The present event comes first, then those of the counters after it. -/
theorem Performs.cons {c : Counters} {c' : Option Counters} {e : Event} {es : List Event} (he : c.event = e)
    (ha : c.advance = c') (h : Performs c' es) : Performs (some c) (e :: es) := by
  subst he ha
  have h' : run es.length c.advance = (es, none) := h
  simp [Performs, run, h']

/-- One bit (R122): bit `k` of the byte `v`, once SR holds `v` shifted by the `n` bits already sent. SR is loaded at bit 7. -/
theorem performs_bit {c : Counters} {es : List Event} {v : Byte} {n k : Nat} (hn : n + k = 7) (hs : c.stage = .bit)
    (hp : c.p = 0) (hsr : (if c.i = 7 then c.byte else c.sr) = v <<< n)
    (h : Performs (some { c with p := 2, sr := v <<< (n + 1) }.afterBit) es) :
    Performs (some c) (bitEvents (v.getLsbD k) ++ es) := by
  have hbit : (v <<< n).getLsbD 7 = v.getLsbD k := by
    have hk : 7 - n = k := by omega
    have hn7 : ¬ 7 < n := by omega
    simp only [BitVec.getLsbD_shiftLeft, hk, hn7, decide_false, decide_true, Nat.lt_add_one, Bool.not_false, Bool.true_and]
  have clkHigh : Performs (some { c with p := 2, sr := v <<< n }) (⟨.clk, true⟩ :: es) :=
    .cons (by simp [event, hs]) (by simp [advance, hs, BitVec.shiftLeft_add]) h
  have data : Performs (some { c with p := 1, sr := v <<< n }) (⟨.data, v.getLsbD k⟩ :: ⟨.clk, true⟩ :: es) :=
    .cons (by simp only [event, hs, hbit]; rfl) (by simp [advance, hs]) clkHigh
  exact .cons (by simp [event, hs, hp]) (by simp [advance, hs, hp, hsr]) data

/-- The counters at the third phase of the last bit of their byte, with the byte shifted out of SR. -/
def byteSent (c : Counters) : Counters := { c with i := 0, p := 2, sr := 0 }

/-- The bits of a byte from bit `k` down (R120), while SR holds the byte `v` shifted by the `n` bits already sent. -/
theorem performs_bitsBelow {c : Counters} {es : List Event} {v : Byte} {n k : Nat} (hn : n + k = 7) (hs : c.stage = .bit)
    (hi : c.i = k) (hp : c.p = 0) (hsr : (if c.i = 7 then c.byte else c.sr) = v <<< n)
    (h : Performs (some c.byteSent.afterBit) es) :
    Performs (some c) ((bitsBelow v (k + 1)).flatMap bitEvents ++ es) := by
  induction k generalizing n c with
  | zero =>
    have hout : v <<< (n + 1) = 0#8 := by
      have hn7 : n = 7 := hn
      rw [hn7, BitVec.shiftLeft_eq_zero le_rfl]
    have hlast : { c with p := 2, sr := v <<< (n + 1) } = c.byteSent := by simp [byteSent, hout, hi]
    exact performs_bit hn hs hp hsr (hlast ▸ h)
  | succ k ih =>
    have hnext : { c with p := 2, sr := v <<< (n + 1) }.afterBit = { c with i := k, p := 0, sr := v <<< (n + 1) } := by
      simp [afterBit, hi]
    have hload : k ≠ 7 := by omega
    rw [bitsBelow, List.flatMap_cons, List.append_assoc]
    refine performs_bit hn hs hp hsr ?_
    rw [hnext]
    exact ih (n := n + 1) (by omega) hs rfl rfl (by simp [hload]) h

/-- One byte (R123). -/
theorem performs_byte (c : Counters) (j b : Nat) {es : List Event} (h : Performs (some (c.atByte j b).byteSent.afterBit) es) :
    Performs (some (c.atByte j b)) (byteEvents (c.atByte j b).byte ++ es) := by
  have hload : (if (c.atByte j b).i = 7 then (c.atByte j b).byte else (c.atByte j b).sr) = (c.atByte j b).byte <<< 0 := by
    simp [atByte]
  rw [byteEvents, ← bitsBelow_eight]
  exact performs_bitsBelow rfl rfl rfl rfl hload h

/-- After the address byte of a slot comes its data byte. -/
theorem afterBit_address (c : Counters) (j : Nat) : (c.atByte j 0).byteSent.afterBit = { c with sr := 0 }.atByte j 1 := rfl

/-- After the data byte of a slot comes the next slot, if there is one. -/
theorem afterBit_data_next {c : Counters} {j : Nat} (h : j + 1 < c.frame.length) :
    (c.atByte j 1).byteSent.afterBit = { c with sr := 0 }.atByte (j + 1) 0 :=
  if_pos h

/-- After the data byte of the last slot LOAD rises. -/
theorem afterBit_data_last {c : Counters} {j : Nat} (h : ¬ j + 1 < c.frame.length) :
    (c.atByte j 1).byteSent.afterBit = { (c.atByte j 1).byteSent with stage := .lhi } :=
  if_neg h

/-- One pair (R121): the bits of its address, then those of its data. -/
theorem performs_pair {c : Counters} {es : List Event} {j : Nat} {p : Pair} (hp : c.frame.getD j ⟨0, 0⟩ = p)
    (h : Performs (some (c.atByte j 1).byteSent.afterBit) es) :
    Performs (some (c.atByte j 0)) ((pairBits p).flatMap bitEvents ++ es) := by
  subst hp
  have data := performs_byte { c with sr := 0 } j 1 h
  rw [← afterBit_address] at data
  rw [pairBits, List.flatMap_append, List.append_assoc]
  exact performs_byte c j 0 data

/-- The slots of a frame from slot `j` on (R124): the pairs left, in order. LOAD rising comes next, with the frame program and
the frame index unchanged; what the other counters hold then is not read (R29). -/
theorem performs_slots {c : Counters} {es : List Event} {j : Nat} {p : Pair} {ps : List Pair} (hj : c.frame.drop j = p :: ps)
    (h : ∀ c' : Counters, c'.stage = .lhi → c'.fp = c.fp → c'.fi = c.fi → Performs (some c') es) :
    Performs (some (c.atByte j 0)) ((frameBits (p :: ps)).flatMap bitEvents ++ es) := by
  rw [frameBits, List.flatMap_cons, List.flatMap_append, List.append_assoc]
  refine performs_pair (getD_of_drop_eq_cons hj) ?_
  induction ps generalizing c j p with
  | nil =>
    have hlast : ¬ j + 1 < c.frame.length := by simp [succ_lt_length_iff_of_drop_eq_cons hj]
    rw [afterBit_data_last hlast]
    exact h _ rfl rfl rfl
  | cons p' ps ih =>
    have hnext : j + 1 < c.frame.length := by simp [succ_lt_length_iff_of_drop_eq_cons hj]
    have hrest := drop_succ_of_drop_eq_cons hj
    rw [afterBit_data_next hnext, List.flatMap_cons, List.flatMap_append, List.append_assoc]
    exact performs_pair (getD_of_drop_eq_cons hrest) (ih (c := { c with sr := 0 }) hrest h)

/-- One frame (R124): LOAD falling, its slots, LOAD rising. -/
theorem performs_frame {c : Counters} {es : List Event} {f : Frame} (hs : c.stage = .llo) (hf : c.frame = f) (hne : f ≠ [])
    (h : ∀ c' : Counters, c'.stage = .lhi → c'.fp = c.fp → c'.fi = c.fi → Performs c'.advance es) :
    Performs (some c) (frameEvents f ++ es) := by
  obtain ⟨p, ps, rfl⟩ := List.exists_cons_of_ne_nil hne
  have loadRise (c' : Counters) (hs' : c'.stage = .lhi) (hfp : c'.fp = c.fp) (hfi : c'.fi = c.fi) :
      Performs (some c') (⟨.load, true⟩ :: es) :=
    .cons (by simp [event, hs']) rfl (h c' hs' hfp hfi)
  have slots := performs_slots (j := 0) hf loadRise
  have all : Performs (some c) (⟨.load, false⟩ :: ((frameBits (p :: ps)).flatMap bitEvents ++ ⟨.load, true⟩ :: es)) :=
    .cons (by simp [event, hs]) (by simp [advance, hs]) slots
  simpa [frameEvents] using all

/-- The frames from the present one on (R125), with no event between them. -/
theorem performs_frames {c : Counters} {f : Frame} {fs : List Frame} (hs : c.stage = .llo) (hfs : c.fp.drop c.fi = f :: fs)
    (hne : ∀ g ∈ f :: fs, g ≠ []) : Performs (some c) (framesEvents (f :: fs)) := by
  have hnext := succ_lt_length_iff_of_drop_eq_cons hfs
  induction fs generalizing c f with
  | nil =>
    refine performs_frame hs (getD_of_drop_eq_cons hfs) (hne f List.mem_cons_self) fun c' hs' hfp hfi => ?_
    have hdone : c'.advance = none := by simp [advance, hs', hfp, hfi, hnext]
    rw [hdone]
    exact performs_none
  | cons f' fs ih =>
    refine performs_frame hs (getD_of_drop_eq_cons hfs) (hne f List.mem_cons_self) fun c' hs' hfp hfi => ?_
    have hmore : c'.advance = some { c' with fi := c'.fi + 1, stage := .llo } := by simp [advance, hs', hfp, hfi, hnext]
    have hrest : c'.fp.drop (c'.fi + 1) = f' :: fs := by rw [hfp, hfi, drop_succ_of_drop_eq_cons hfs]
    rw [hmore]
    exact ih rfl hrest (fun g hg => hne g (List.mem_cons_of_mem f hg)) (succ_lt_length_iff_of_drop_eq_cons hrest)

/-- INIT's four setup events (R181), then the frames. -/
theorem performs_setup {c : Counters} {es : List Event} (hs : c.stage = .setup0)
    (h : Performs (some { c with stage := .llo }) es) : Performs (some c) (setupEvents ++ es) := by
  have first : c.advance = some { c with stage := .setup1 } := by simp [advance, hs]
  exact .cons (by simp [event, hs]) first (.cons rfl rfl (.cons rfl rfl (.cons rfl rfl h)))

/-- The counters at the start of a command perform its events. -/
theorem performs_start {w : Work} (hw : w.frames ≠ []) (hne : ∀ f ∈ w.frames, f ≠ []) : Performs (some (start w)) w.events := by
  obtain ⟨f, fs, hfs⟩ := List.exists_cons_of_ne_nil hw
  rw [hfs] at hne
  have frames : Performs (some { start w with stage := .llo }) (framesEvents w.frames) := by
    rw [hfs]
    exact performs_frames rfl hfs hne
  unfold Work.events
  split
  case isTrue hset => exact performs_setup (if_pos hset) frames
  case isFalse hset =>
    have hstart : start w = { start w with stage := .llo } := by simp [start, hset]
    rw [hstart]
    exact frames

end Counters

/-- Settles O41: the counters' remaining events are followed bit by bit, byte by byte, slot by slot and frame by frame
(`Counters.performs_start`). -/
theorem countersRealiseTheEventList : Obligations.CountersRealiseTheEventList :=
  fun _ => Counters.performs_start

end Sys2Proof.Machine
end

section
/-! SUPPORT. Which accesses the window admits and which are bus errors, and what a read adds to an idle cycle; and the statements
about the memory window they settle (20_memory.md R61 to R65). -/

namespace Sys2Proof.Machine

/-! ### The window and its neighbours (R61, R62) -/

/-- The registers stand at multiples of 4 (R61). -/
theorem WindowReg.offset_mod_four (r : WindowReg) : r.offset % 4 = 0 := by
  cases r <;> rfl

/-- Every multiple of 4 in the window is the address of a register (R61). -/
theorem exists_windowReg {base addr : Nat} (hb : base % 16 = 0) (hlo : base ≤ addr) (hhi : addr < base + 16)
    (h4 : addr % 4 = 0) : ∃ r : WindowReg, addr = base + r.offset := by
  have hcases : addr = base + 0x0 ∨ addr = base + 0x4 ∨ addr = base + 0x8 ∨ addr = base + 0xC := by omega
  rcases hcases with h | h | h | h
  · exact ⟨.cmd, h⟩
  · exact ⟨.status, h⟩
  · exact ⟨.pins, h⟩
  · exact ⟨.reserved, h⟩

/-- An access that touches the window is not outside it (R62). -/
theorem windowHit_ne_outside {base addr n : Nat} (hhi : addr < base + 16) (hlo : base < addr + n) :
    windowHit base addr n ≠ .outside := by
  unfold windowHit
  rw [if_pos ⟨hhi, hlo⟩]
  repeat' split
  all_goals simp

/-- An access that touches the window and is not 4 bytes at a multiple of 4 is a bus error: it is not outside, and it is at no
register (R62). -/
theorem windowHit_eq_busError {base addr n : Nat} (hb : base % 16 = 0) (hhi : addr < base + 16) (hlo : base < addr + n)
    (hna : ¬ (n = 4 ∧ addr % 4 = 0)) : windowHit base addr n = .busError := by
  cases hhit : windowHit base addr n with
  | busError => rfl
  | outside => exact absurd hhit (windowHit_ne_outside hhi hlo)
  | reg r =>
    obtain ⟨hn, haddr⟩ := windowHit_eq_reg hhit
    have hr := r.offset_mod_four
    exact absurd ⟨hn, by omega⟩ hna

/-! ### Accesses that fault and accesses that are answered (R62) -/

theorem State.access_read_busError {s : State} {addr n : Nat} (h : windowHit s.cfg.base addr n = .busError) :
    s.access (.read addr n) = .fault (.busError addr n) := by
  simp [State.access, h]

theorem State.access_write_busError {s : State} {addr : Nat} {bytes : List Byte}
    (h : windowHit s.cfg.base addr bytes.length = .busError) :
    s.access (.write addr bytes) = .fault (.busError addr bytes.length) := by
  simp [State.access, h]

/-- A word written to a register is always answered: acceptance takes every word, and the other registers refuse none (R61,
R97). -/
theorem State.writeWindow_next (s : State) (r : WindowReg) (w : Word) : ∃ a, s.writeWindow r w = .next a := by
  cases r with
  | cmd =>
    rcases s.accept_next w with ⟨_, -, h⟩ | ⟨-, h⟩
    · exact ⟨_, h⟩
    · exact ⟨_, h⟩
  | status => exact ⟨_, rfl⟩
  | pins => exact ⟨_, rfl⟩
  | reserved => exact ⟨_, rfl⟩

/-- Four bytes are the lanes of some word (R64). -/
theorem exists_wordLanes {bytes : List Byte} (h : bytes.length = 4) : ∃ w, bytes = wordLanes w := by
  obtain ⟨b0, b1, b2, b3, rfl⟩ := List.length_eq_four.1 h
  exact ⟨_, (wordLanes_of_wordOfLanes rfl).symm⟩

/-- A fault of the access is the step's (R62, R244). -/
theorem step_fault_of_access {s : State} {acc : Access} {f : Fault} (hr : s.rstAsserted = false)
    (hacc : s.hostAccess = some acc) (h : s.access acc = .fault f) : step s = .fault f := by
  simp [step, hr, State.hostCycle_of_access hacc, h]

/-- An answered access lets the step go on to a next state (R63). -/
theorem step_next_of_access {s a : State} {acc : Access} (hr : s.rstAsserted = false)
    (hacc : s.hostAccess = some acc) (h : s.access acc = .next a) : ∃ t, step s = .next t :=
  ⟨(s.passCycle a).takeInputs s.hostRest, by simp [step, hr, State.hostCycle_of_access hacc, h]⟩

/-! ### A read beside an idle cycle (R65) -/

/-- The sequencer neither reads nor writes the log of reads. -/
theorem State.sequence_with_reads (a : State) (rs : List ReadEntry) :
    { a with reads := rs }.sequence = { a.sequence with reads := rs } := by
  unfold State.sequence
  dsimp only
  split
  · rfl
  · split <;> rfl

/-- What passes beside the access leaves the log of reads the access left, and depends on no entry of it (R65). -/
theorem State.passCycle_with_reads (s a : State) (rs : List ReadEntry) :
    s.passCycle { a with reads := rs } = { s.passCycle a with reads := rs } := by
  unfold State.passCycle
  rw [State.sequence_with_reads]
  cases s.busy <;> rfl

/-! ### The statements -/

/-- Settles O18. An access that touches the window off the registers is a bus error (`windowHit_eq_busError`); an aligned word is
at a register (`exists_windowReg`), and every register answers. That an access which touches the window only in part is one to
it, and so is one of width 0 at BASE+1..BASE+15, is the model's choice (logs 9 and 20). -/
theorem onlyAlignedWordsAreAdmitted : Obligations.OnlyAlignedWordsAreAdmitted := by
  refine fun s hr hb => ⟨fun addr n hacc hhi hlo hna => ?readFault, fun addr bytes hacc hhi hlo hna => ?writeFault,
    fun addr hacc hhi hlo h4 => ?readNext, fun addr bytes hacc hhi hlo h4 hlen => ?writeNext⟩
  case readFault =>
    exact step_fault_of_access hr hacc (State.access_read_busError (windowHit_eq_busError hb hhi hlo hna))
  case writeFault =>
    exact step_fault_of_access hr hacc (State.access_write_busError (windowHit_eq_busError hb hhi hlo hna))
  case readNext =>
    obtain ⟨r, rfl⟩ := exists_windowReg hb hlo hhi h4
    exact step_next_of_access hr hacc (s.access_read r)
  case writeNext =>
    obtain ⟨r, rfl⟩ := exists_windowReg hb hlo hhi h4
    obtain ⟨w, rfl⟩ := exists_wordLanes hlen
    obtain ⟨a, ha⟩ := s.writeWindow_next r w
    exact step_next_of_access hr hacc ((s.access_write r w).trans ha)

/-- Settles O19: a read adds its entry to the log, which nothing else of the cycle reads or writes (`passCycle_with_reads`), and a
write to the reserved offset leaves S(n) as it is. -/
theorem readsHaveNoSideEffect : Obligations.ReadsHaveNoSideEffect := by
  refine ⟨fun s r rest hr hh => ?read, fun s => ⟨rfl, rfl, rfl, rfl⟩, fun s w rest hr hh => ?write⟩
  case read =>
    have ha : s.hostCycle = .next (s.returnRead (s.cfg.base + r.offset) (s.readWindow r)) :=
      (State.hostCycle_of_access (State.hostAccess_of_host hh)).trans (s.access_read r)
    refine ⟨_, _, step_of_hostCycle hr hh (by simp) ha, step_idle hr rest, ?_⟩
    rw [State.returnRead, State.passCycle_with_reads]
    rfl
  case write =>
    have ha : s.hostCycle = .next s :=
      (State.hostCycle_of_access (State.hostAccess_of_host hh)).trans (s.access_write .reserved w)
    rw [step_of_hostCycle hr hh (by simp) ha, step_idle hr rest]

end Sys2Proof.Machine
end

section
/-! SUPPORT. The decoder and the encoder are inverse to each other, the rows of the opcode table are what the decoder tells apart,
and the word column of the assembler is the packed word; and the statements about the encoding they settle (30_encoding.md R90 to
R101). -/

namespace Sys2Proof

/-! ### Words by their fields (R90) -/

/-- A word is packed from these fields exactly when they are its fields (R90). -/
theorem eq_packWord_iff {w : Word} {op : BitVec 4} {bc : BitVec 1} {rsv : BitVec 3} {dev a d : Byte} :
    w = packWord op bc rsv dev a d ↔
      fieldOp w = op ∧ fieldBc w = bc ∧ fieldRsv w = rsv ∧ fieldDev w = dev ∧ fieldA w = a ∧ fieldD w = d := by
  constructor
  · rintro rfl
    simp
  · rintro ⟨rfl, rfl, rfl, rfl, rfl, rfl⟩
    exact (packWord_fields w).symm

/-- Bits within a part of a word that is zero are zero. -/
theorem extractLsb'_eq_zero_of_within {n start len start' len' : Nat} {w : BitVec n} (h : w.extractLsb' start len = 0)
    (hlo : start ≤ start') (hhi : start' + len' ≤ start + len) : w.extractLsb' start' len' = 0 := by
  refine BitVec.eq_of_getLsbD_eq fun k hk => ?_
  have hbit := congrArg (BitVec.getLsbD · (start' - start + k)) h
  have hin : start' - start + k < len := by omega
  have hpos : start + (start' - start + k) = start' + k := by omega
  simpa [BitVec.getLsbD_extractLsb', hk, hin, hpos] using hbit

/-! ### Decoding and encoding (R93, R96) -/

/-- Every reserved bit of a legal word is zero (R93). -/
theorem fieldRsv_of_legal {w : Word} (h : legal w = true) : fieldRsv w = 0 := by
  simp only [legal, Bool.and_eq_true, beq_iff_eq] at h
  exact h.1

/-- A word with no bit set below the opcode, as INIT and CLEAR have it, is its packed opcode (R93). -/
theorem eq_packWord_of_operandBits {w : Word} (h : w.extractLsb' 0 28 = 0) : w = packWord (fieldOp w) 0 0 0 0 0 := by
  have zero {start len : Nat} (hhi : start + len ≤ 28) : w.extractLsb' start len = 0 :=
    extractLsb'_eq_zero_of_within h (Nat.zero_le start) (by omega)
  exact eq_packWord_iff.2 ⟨rfl, zero (by decide), zero (by decide), zero (by decide), zero (by decide), zero (by decide)⟩

/-- A word with no bit set between the opcode and D, as SETB has it, is its packed opcode and D (R93). -/
theorem eq_packWord_of_setbBits {w : Word} (h : w.extractLsb' 8 20 = 0) :
    w = packWord (fieldOp w) 0 0 0 0 (fieldD w) := by
  have zero {start len : Nat} (hlo : 8 ≤ start) (hhi : start + len ≤ 28) : w.extractLsb' start len = 0 :=
    extractLsb'_eq_zero_of_within h hlo (by omega)
  exact eq_packWord_iff.2 ⟨rfl, zero (by decide) (by decide), zero (by decide) (by decide), zero (by decide) (by decide),
    zero (by decide) (by decide), rfl⟩

/-- A byte read as a number fits its field (R91). -/
@[simp] theorem fitsField_toNat (b : Byte) : fitsField b.toNat = true := by
  simpa [fitsField] using b.isLt

theorem fitsField_iff {v : Nat} : fitsField v = true ↔ v < 256 := by simp [fitsField]

/-- A number that fits its field is not cut down there (R100). -/
theorem mod_of_fitsField {v : Nat} (h : fitsField v = true) : v % 256 = v := Nat.mod_eq_of_lt (fitsField_iff.1 h)

/-- The word of a well-formed command is legal (R93). -/
theorem legal_encode {i : Instr} (h : i.wellFormed = true) : legal (encode i) = true := by
  cases i with
  | init => exact Laws.EncodeLegal.init h
  | setb level => exact Laws.EncodeLegal.setb level h
  | clear => exact Laws.EncodeLegal.clear h
  | drowd row pattern dev => exact Laws.EncodeLegal.drowd row pattern dev h
  | drowdAll row pattern => exact Laws.EncodeLegal.drowdAll row pattern h
  | wreg addr data dev => exact Laws.EncodeLegal.wreg addr data dev h
  | wregAll addr data => exact Laws.EncodeLegal.wregAll addr data h

/-- Decoding the word of a well-formed command gives the command back (R96). -/
theorem decode_encode {i : Instr} (h : i.wellFormed = true) : decode (encode i) = .ok i := by
  unfold decode
  rw [if_pos (legal_encode h)]
  cases i with
  | init => simp [encode]
  | setb => simp [encode]
  | clear => simp [encode]
  | drowd row pattern dev =>
    obtain ⟨hrow, hdev⟩ : fitsField row = true ∧ fitsField dev = true := by simpa [Instr.wellFormed] using h
    simp [encode, mod_of_fitsField hrow, mod_of_fitsField hdev]
  | drowdAll row pattern =>
    have hrow : fitsField row = true := h
    simp [encode, mod_of_fitsField hrow]
  | wreg addr data dev =>
    have hdev : fitsField dev = true := h
    simp [encode, mod_of_fitsField hdev]
  | wregAll => simp [encode]

/-- A single bit that is not 1 is 0. -/
theorem bit_eq_zero_of_ne_one {b : BitVec 1} (h : b ≠ 1) : b = 0 := b.eq_zero_or_eq_one.resolve_right h

/-- Every legal word is the word of a well-formed command (R93): the opcode picks the command, and the fields it does not use are
zero. -/
theorem exists_encode_of_legal {w : Word} (h : legal w = true) : ∃ i : Instr, i.wellFormed = true ∧ encode i = w := by
  have hrsv := fieldRsv_of_legal h
  have hdev (hu : (fieldBc w == 0 || fieldDev w == 0) = true) (hbc : fieldBc w = 1) : fieldDev w = 0 := by
    simpa [hbc] using hu
  simp only [legal, Bool.and_eq_true] at h
  obtain ⟨-, h⟩ := h
  split at h
  case isTrue hop =>
    have hw := eq_packWord_of_operandBits (beq_iff_eq.1 h)
    rw [hop] at hw
    exact ⟨.init, rfl, hw.symm⟩
  split at h
  case isTrue hop =>
    have hw := eq_packWord_of_setbBits (beq_iff_eq.1 h)
    rw [hop] at hw
    exact ⟨.setb (fieldD w), rfl, hw.symm⟩
  split at h
  case isTrue hop =>
    have hw := eq_packWord_of_operandBits (beq_iff_eq.1 h)
    rw [hop] at hw
    exact ⟨.clear, rfl, hw.symm⟩
  split at h
  case isTrue hop =>
    by_cases hbc : fieldBc w = 1
    · exact ⟨.drowdAll (fieldA w).toNat (fieldD w), by simp [Instr.wellFormed],
        (eq_packWord_iff.2 ⟨hop, hbc, hrsv, hdev h hbc, by simp, rfl⟩).symm⟩
    · exact ⟨.drowd (fieldA w).toNat (fieldD w) (fieldDev w).toNat, by simp [Instr.wellFormed],
        (eq_packWord_iff.2 ⟨hop, bit_eq_zero_of_ne_one hbc, hrsv, by simp, by simp, rfl⟩).symm⟩
  split at h
  case isTrue hop =>
    by_cases hbc : fieldBc w = 1
    · exact ⟨.wregAll (fieldA w) (fieldD w), rfl, (eq_packWord_iff.2 ⟨hop, hbc, hrsv, hdev h hbc, rfl, rfl⟩).symm⟩
    · exact ⟨.wreg (fieldA w) (fieldD w) (fieldDev w).toNat, by simp [Instr.wellFormed],
        (eq_packWord_iff.2 ⟨hop, bit_eq_zero_of_ne_one hbc, hrsv, by simp, rfl, rfl⟩).symm⟩
  contradiction

/-- Only a legal word decodes (R94). -/
theorem legal_of_decode {w : Word} {i : Instr} (h : decode w = .ok i) : legal w = true := by
  by_contra hw
  simp [decode, hw] at h

/-- The decoder and the encoder are inverse to each other on well-formed commands (R93, R96). -/
theorem decode_eq_ok_iff {w : Word} {i : Instr} : decode w = .ok i ↔ i.wellFormed = true ∧ encode i = w := by
  constructor
  · intro h
    obtain ⟨j, hj, rfl⟩ := exists_encode_of_legal (legal_of_decode h)
    have hji : j = i := Except.ok.inj ((decode_encode hj).symm.trans h)
    exact hji ▸ ⟨hj, rfl⟩
  · rintro ⟨hi, rfl⟩
    exact decode_encode hi

/-- The legal words are those that decode (R95). -/
theorem legal_iff_exists_decode {w : Word} : legal w = true ↔ ∃ i, decode w = .ok i := by
  constructor
  · intro h
    obtain ⟨i, hi⟩ := exists_encode_of_legal h
    exact ⟨i, decode_eq_ok_iff.2 hi⟩
  · rintro ⟨i, hi⟩
    exact legal_of_decode hi

/-- A word that is not legal decodes to `Illegal(w)` (R94). -/
theorem decode_of_not_legal {w : Word} (h : legal w = false) : decode w = .error (.illegal w) := by
  simp [decode, h]

/-- Bytes that are not four are refused by their number (R90, R95). -/
theorem decodeBytes_of_length_ne {bytes : List Byte} (h : bytes.length ≠ 4) :
    decodeBytes bytes = .error (.wrongLength bytes.length) := by
  unfold decodeBytes
  cases hw : wordOfLanes bytes with
  | none => rfl
  | some w => exact absurd (length_of_wordOfLanes hw) h

/-- Bytes that decode to a command are the lanes of a word that decodes to it (R64). -/
theorem exists_word_of_decodeBytes {bytes : List Byte} {i : Instr} (h : decodeBytes bytes = .ok i) :
    ∃ w, bytes = wordLanes w ∧ decode w = .ok i := by
  cases hw : wordOfLanes bytes with
  | none => simp [decodeBytes, hw] at h
  | some w =>
    obtain rfl := wordLanes_of_wordOfLanes hw
    exact ⟨w, rfl, by simpa using h⟩

/-! ### The rows of the opcode table (R92) -/

section Masks

variable {w : Word} {op : BitVec 4} {bc : BitVec 1} {rsv : BitVec 3} {dev a d : Byte}

/-- A word is masked field by field (R90). -/
theorem and_packWord : w &&& packWord op bc rsv dev a d =
    packWord (fieldOp w &&& op) (fieldBc w &&& bc) (fieldRsv w &&& rsv) (fieldDev w &&& dev) (fieldA w &&& a)
      (fieldD w &&& d) := by
  calc w &&& packWord op bc rsv dev a d
      = packWord (fieldOp w) (fieldBc w) (fieldRsv w) (fieldDev w) (fieldA w) (fieldD w) &&& packWord op bc rsv dev a d := by
        rw [packWord_fields]
    _ = _ := by simp only [packWord, ← BitVec.and_append]

/-- The mask of SETB's row fixes every field but D. -/
theorem and_mask_d_eq_iff : w &&& 0xFFFFFF00 = packWord op bc rsv dev a 0 ↔ w = packWord op bc rsv dev a (fieldD w) := by
  have hmask : (0xFFFFFF00 : Word) = packWord (.allOnes 4) (.allOnes 1) (.allOnes 3) (.allOnes 8) (.allOnes 8) 0#8 := rfl
  rw [hmask, and_packWord]
  simp only [BitVec.and_allOnes, BitVec.and_zero]
  simp [eq_packWord_iff]

/-- The mask of the broadcast rows fixes every field but A and D. -/
theorem and_mask_a_d_eq_iff :
    w &&& 0xFFFF0000 = packWord op bc rsv dev 0 0 ↔ w = packWord op bc rsv dev (fieldA w) (fieldD w) := by
  have hmask : (0xFFFF0000 : Word) = packWord (.allOnes 4) (.allOnes 1) (.allOnes 3) (.allOnes 8) 0#8 0#8 := rfl
  rw [hmask, and_packWord]
  simp only [BitVec.and_allOnes, BitVec.and_zero]
  simp [eq_packWord_iff]

/-- The mask of the targeted rows fixes the opcode, BC and RSV. -/
theorem and_mask_dev_a_d_eq_iff :
    w &&& 0xFF000000 = packWord op bc rsv 0 0 0 ↔ w = packWord op bc rsv (fieldDev w) (fieldA w) (fieldD w) := by
  have hmask : (0xFF000000 : Word) = packWord (.allOnes 4) (.allOnes 1) (.allOnes 3) 0#8 0#8 0#8 := rfl
  rw [hmask, and_packWord]
  simp only [BitVec.and_allOnes, BitVec.and_zero]
  simp [eq_packWord_iff]

theorem packWord_and_mask_d : packWord op bc rsv dev a d &&& 0xFFFFFF00 = packWord op bc rsv dev a 0 :=
  and_mask_d_eq_iff.2 (by simp)

theorem packWord_and_mask_a_d : packWord op bc rsv dev a d &&& 0xFFFF0000 = packWord op bc rsv dev 0 0 :=
  and_mask_a_d_eq_iff.2 (by simp)

theorem packWord_and_mask_dev_a_d : packWord op bc rsv dev a d &&& 0xFF000000 = packWord op bc rsv 0 0 0 :=
  and_mask_dev_a_d_eq_iff.2 (by simp)

end Masks

/-- The row of the opcode table with the command's name. -/
def Instr.opcodeRow : Instr → OpcodeRow
  | .init => ⟨"INIT", 0x10000000, 0xFFFFFFFF⟩
  | .setb _ => ⟨"SETB", 0x20000000, 0xFFFFFF00⟩
  | .clear => ⟨"CLEAR", 0x30000000, 0xFFFFFFFF⟩
  | .drowd _ _ _ => ⟨"DROWD", 0x40000000, 0xFF000000⟩
  | .drowdAll _ _ => ⟨"DROWD.ALL", 0x48000000, 0xFFFF0000⟩
  | .wreg _ _ _ => ⟨"WREG", 0x50000000, 0xFF000000⟩
  | .wregAll _ _ => ⟨"WREG.ALL", 0x58000000, 0xFFFF0000⟩

theorem Instr.opcodeRow_mem (i : Instr) : i.opcodeRow ∈ opcodeTable := by
  cases i <;> simp [Instr.opcodeRow, opcodeTable]

theorem Instr.opcodeRow_mnemonic (i : Instr) : i.opcodeRow.mnemonic = i.mnemonic := by
  cases i <;> rfl

/-- The rows have different names. -/
theorem eq_of_mnemonic_eq {r r' : OpcodeRow} (hr : r ∈ opcodeTable) (hr' : r' ∈ opcodeTable)
    (h : r.mnemonic = r'.mnemonic) : r = r' := by
  have hall : ∀ r ∈ opcodeTable, ∀ r' ∈ opcodeTable, r.mnemonic = r'.mnemonic → r = r' := by decide
  exact hall r hr r' hr' h

theorem OpcodeRow.matches_iff {r : OpcodeRow} {w : Word} : r.matches w = true ↔ w &&& r.mask = r.pattern := beq_iff_eq

/-- The word of a command belongs to the command's row (R92). -/
theorem Instr.opcodeRow_matches_encode (i : Instr) : i.opcodeRow.matches (encode i) = true := by
  refine OpcodeRow.matches_iff.2 ?_
  cases i with
  | init => decide
  | setb level => exact packWord_and_mask_d
  | clear => decide
  | drowd row pattern dev => exact packWord_and_mask_dev_a_d
  | drowdAll row pattern => exact packWord_and_mask_a_d
  | wreg addr data dev => exact packWord_and_mask_dev_a_d
  | wregAll addr data => exact packWord_and_mask_a_d

/-- A word of a row is the word of a well-formed command of the row's name (R92, R93). -/
theorem exists_encode_of_matches {r : OpcodeRow} {w : Word} (hr : r ∈ opcodeTable) (h : r.matches w = true) :
    ∃ i : Instr, i.wellFormed = true ∧ encode i = w ∧ i.mnemonic = r.mnemonic := by
  rw [OpcodeRow.matches_iff] at h
  simp only [opcodeTable, List.mem_cons, List.not_mem_nil, or_false] at hr
  rcases hr with rfl | rfl | rfl | rfl | rfl | rfl | rfl
  · exact ⟨.init, rfl, (BitVec.and_allOnes.symm.trans h).symm, rfl⟩
  · exact ⟨.setb (fieldD w), rfl, (and_mask_d_eq_iff.1 h).symm, rfl⟩
  · exact ⟨.clear, rfl, (BitVec.and_allOnes.symm.trans h).symm, rfl⟩
  · exact ⟨.drowd (fieldA w).toNat (fieldD w) (fieldDev w).toNat, by simp [Instr.wellFormed],
      by simpa [encode] using (and_mask_dev_a_d_eq_iff.1 h).symm, rfl⟩
  · exact ⟨.drowdAll (fieldA w).toNat (fieldD w), by simp [Instr.wellFormed],
      by simpa [encode] using (and_mask_a_d_eq_iff.1 h).symm, rfl⟩
  · exact ⟨.wreg (fieldA w) (fieldD w) (fieldDev w).toNat, by simp [Instr.wellFormed],
      by simpa [encode] using (and_mask_dev_a_d_eq_iff.1 h).symm, rfl⟩
  · exact ⟨.wregAll (fieldA w) (fieldD w), rfl, (and_mask_a_d_eq_iff.1 h).symm, rfl⟩

/-- A word belongs to a row exactly when it decodes to a command of the row's name (R92, R93). -/
theorem OpcodeRow.matches_iff_decode {r : OpcodeRow} {w : Word} (hr : r ∈ opcodeTable) :
    r.matches w = true ↔ ∃ i, decode w = .ok i ∧ r.mnemonic = i.mnemonic := by
  constructor
  · intro h
    obtain ⟨i, hi, hw, hm⟩ := exists_encode_of_matches hr h
    exact ⟨i, decode_eq_ok_iff.2 ⟨hi, hw⟩, hm.symm⟩
  · rintro ⟨i, hi, hm⟩
    obtain ⟨-, rfl⟩ := decode_eq_ok_iff.1 hi
    rw [eq_of_mnemonic_eq hr i.opcodeRow_mem (hm.trans i.opcodeRow_mnemonic.symm)]
    exact i.opcodeRow_matches_encode

/-! ### Operands put into a word (R100) -/

section Operands

variable {w : Word} {op : BitVec 4} {bc : BitVec 1} {rsv : BitVec 3} {dev a d : Byte} {x y z : Nat}

/-- Words are joined field by field (R90). -/
theorem packWord_or_packWord {op' : BitVec 4} {bc' : BitVec 1} {rsv' : BitVec 3} {dev' a' d' : Byte} :
    packWord op bc rsv dev a d ||| packWord op' bc' rsv' dev' a' d' =
      packWord (op ||| op') (bc ||| bc') (rsv ||| rsv') (dev ||| dev') (a ||| a') (d ||| d') := by
  simp only [packWord, ← BitVec.or_append]

/-- A byte at bit 0 of a word is its D field (R90). -/
theorem setWidth_eq_packWord (b : Byte) : b.setWidth 32 = packWord 0 0 0 0 0 b := by
  refine BitVec.eq_of_getLsbD_eq fun k hk => ?_
  have hhigh := b.getLsbD_of_ge k
  simp only [BitVec.getLsbD_setWidth, getLsbD_packWord]
  by_cases hd : k < 8
  · simp [hk, hd]
  · simp [hd, hhigh (by omega)]

/-- A byte at bit 8 of a word is its A field (R90). -/
theorem setWidth_shiftLeft_eight (b : Byte) : b.setWidth 32 <<< 8 = packWord 0 0 0 0 b 0 := by
  refine BitVec.eq_of_getLsbD_eq fun k hk => ?_
  have hhigh := b.getLsbD_of_ge (k - 8)
  simp only [BitVec.getLsbD_shiftLeft, BitVec.getLsbD_setWidth, getLsbD_packWord]
  by_cases hlow : k < 8
  · simp [hlow]
  by_cases ha : k < 16
  · have hbyte : k - 8 < 32 := by omega
    simp [hk, hlow, ha, hbyte]
  · simp [hlow, ha, hhigh (by omega)]

/-- A byte at bit 16 of a word is its DEV field (R90). -/
theorem setWidth_shiftLeft_sixteen (b : Byte) : b.setWidth 32 <<< 16 = packWord 0 0 0 b 0 0 := by
  refine BitVec.eq_of_getLsbD_eq fun k hk => ?_
  have hhigh := b.getLsbD_of_ge (k - 16)
  simp only [BitVec.getLsbD_shiftLeft, BitVec.getLsbD_setWidth, getLsbD_packWord]
  by_cases hlow : k < 16
  · simp [hlow]
  by_cases hdev : k < 24
  · have hd : ¬ k < 8 := by omega
    have hbyte : k - 16 < 32 := by omega
    simp [hk, hd, hlow, hdev, hbyte]
  · simp [hlow, hdev, hhigh (by omega)]

/-- A number that fits 8 bits is a byte in a word. -/
theorem ofNat_eq_setWidth (h : x < 256) : BitVec.ofNat 32 x = (BitVec.ofNat 8 x).setWidth 32 :=
  (BitVec.setWidth_ofNat_of_le_of_lt (by decide) h).symm

theorem packWord_or_d (h : z < 256) :
    packWord op bc rsv dev a 0 ||| BitVec.ofNat 32 z = packWord op bc rsv dev a (BitVec.ofNat 8 z) := by
  rw [ofNat_eq_setWidth h, setWidth_eq_packWord, packWord_or_packWord]
  simp

theorem packWord_or_a (h : y < 256) :
    packWord op bc rsv dev 0 d ||| BitVec.ofNat 32 y <<< 8 = packWord op bc rsv dev (BitVec.ofNat 8 y) d := by
  rw [ofNat_eq_setWidth h, setWidth_shiftLeft_eight, packWord_or_packWord]
  simp

theorem packWord_or_dev (h : x < 256) :
    packWord op bc rsv 0 a d ||| BitVec.ofNat 32 x <<< 16 = packWord op bc rsv (BitVec.ofNat 8 x) a d := by
  rw [ofNat_eq_setWidth h, setWidth_shiftLeft_sixteen, packWord_or_packWord]
  simp

/-- The word column of SETB (R100): an opcode word joined with one operand. -/
theorem or_d_eq_packWord (hw : w = packWord op bc rsv dev a 0) (hz : z < 256) :
    w ||| BitVec.ofNat 32 z = packWord op bc rsv dev a (BitVec.ofNat 8 z) := by
  rw [hw, packWord_or_d hz]

/-- The word column of the broadcast forms (R100): an opcode word joined with two operands. -/
theorem or_a_d_eq_packWord (hw : w = packWord op bc rsv dev 0 0) (hy : y < 256) (hz : z < 256) :
    w ||| BitVec.ofNat 32 y <<< 8 ||| BitVec.ofNat 32 z =
      packWord op bc rsv dev (BitVec.ofNat 8 y) (BitVec.ofNat 8 z) := by
  rw [hw, packWord_or_a hy, packWord_or_d hz]

/-- The word column of the targeted forms (R100): an opcode word joined with three operands. -/
theorem or_dev_a_d_eq_packWord (hw : w = packWord op bc rsv 0 0 0) (hx : x < 256) (hy : y < 256) (hz : z < 256) :
    w ||| BitVec.ofNat 32 x <<< 16 ||| BitVec.ofNat 32 y <<< 8 ||| BitVec.ofNat 32 z =
      packWord op bc rsv (BitVec.ofNat 8 x) (BitVec.ofNat 8 y) (BitVec.ofNat 8 z) := by
  rw [hw, packWord_or_dev hx, packWord_or_a hy, packWord_or_d hz]

end Operands

end Sys2Proof

namespace Sys2Proof.Machine

/-- A pseudo-instruction has the word of its expansion (R101). -/
theorem AsmLine.word_expand (l : AsmLine) : l.expand.word = l.word := by
  cases l with
  | nopf => decide
  | init | setb | clear | drowd | wreg | drow => rfl

/-- A line whose operands fit has the word of its command (R100). -/
theorem AsmLine.word_eq_encode {l : AsmLine} (h : ∀ v ∈ l.operands, v < 256) : l.word = encode l.instr := by
  cases l with
  | init => rfl
  | setb level =>
    have hlevel : level < 256 := by simpa [AsmLine.operands] using h
    exact or_d_eq_packWord rfl hlevel
  | clear => rfl
  | drowd row pattern target =>
    cases target with
    | all =>
      obtain ⟨hrow, hpattern⟩ : row < 256 ∧ pattern < 256 := by simpa [AsmLine.operands, Target.operands] using h
      exact or_a_d_eq_packWord rfl hrow hpattern
    | dev d =>
      obtain ⟨hrow, hpattern, hdev⟩ : row < 256 ∧ pattern < 256 ∧ d < 256 := by
        simpa [AsmLine.operands, Target.operands] using h
      exact or_dev_a_d_eq_packWord rfl hdev hrow hpattern
  | wreg addr data target =>
    cases target with
    | all =>
      obtain ⟨haddr, hdata⟩ : addr < 256 ∧ data < 256 := by simpa [AsmLine.operands, Target.operands] using h
      exact or_a_d_eq_packWord rfl haddr hdata
    | dev d =>
      obtain ⟨haddr, hdata, hdev⟩ : addr < 256 ∧ data < 256 ∧ d < 256 := by
        simpa [AsmLine.operands, Target.operands] using h
      exact or_dev_a_d_eq_packWord rfl hdev haddr hdata
  | drow row pattern =>
    obtain ⟨hrow, hpattern⟩ : row < 256 ∧ pattern < 256 := by simpa [AsmLine.operands] using h
    exact or_a_d_eq_packWord rfl hrow hpattern
  | nopf => rfl

/-- A line whose operands fit stands for a well-formed command (R100). -/
theorem AsmLine.wellFormed_instr {l : AsmLine} (h : ∀ v ∈ l.operands, v < 256) : l.instr.wellFormed = true := by
  cases l with
  | init | setb | clear | nopf => rfl
  | drowd row pattern target =>
    have hrow : row < 256 := h row (by simp [AsmLine.operands])
    cases target with
    | all => exact fitsField_iff.2 hrow
    | dev d =>
      have hdev : d < 256 := h d (by simp [AsmLine.operands, Target.operands])
      simp [AsmLine.instr, Instr.wellFormed, fitsField, hrow, hdev]
  | wreg addr data target =>
    cases target with
    | all => rfl
    | dev d =>
      have hdev : d < 256 := h d (by simp [AsmLine.operands, Target.operands])
      exact fitsField_iff.2 hdev
  | drow row pattern =>
    have hrow : row < 256 := h row (by simp [AsmLine.operands])
    exact fitsField_iff.2 hrow

/-- With every operand fitting, the assembler answers the line's word (R100). -/
theorem assemble_of_fits {l : AsmLine} (h : ∀ v ∈ l.operands, v < 256) : assemble l = .ok l.word := by
  have hnone : l.operands.find? (fun v => !fitsField v) = none := by simpa [fitsField] using h
  simp [assemble, hnone, l.word_expand]

/-- With an operand that does not fit, the assembler answers an error that names such an operand (R100). -/
theorem assemble_of_not_fits {l : AsmLine} (h : ∃ v ∈ l.operands, 256 ≤ v) :
    ∃ v ∈ l.operands, 256 ≤ v ∧ assemble l = .error (.doesNotFit v) := by
  have hsome : (l.operands.find? fun v => !fitsField v).isSome = true := by simpa [fitsField] using h
  obtain ⟨v, hv⟩ := Option.isSome_iff_exists.1 hsome
  have hbig : 256 ≤ v := by simpa [fitsField] using List.find?_some hv
  exact ⟨v, List.mem_of_find?_eq_some hv, hbig, by simp [assemble, hv]⟩

/-! ### The statements -/

/-- Settles O1: the fields of the packed word are those that were packed (`decode_encode`), and the decoder on the lanes of a word
is the decoder on the word. -/
theorem decodeOfEncodeIsTheCommand : Obligations.DecodeOfEncodeIsTheCommand := fun _ hi =>
  ⟨decode_encode hi, (decodeBytes_wordLanes _).trans (decode_encode hi)⟩

/-- Settles O2: every legal word is the word of a well-formed command (`exists_encode_of_legal`), which is the one it decodes to. -/
theorem encodeOfDecodeIsTheWord : Obligations.EncodeOfDecodeIsTheWord :=
  fun _ _ => decode_eq_ok_iff.1

/-- Settles O3: the legal words are those that decode, and the others are refused by name. -/
theorem everyWordIsLegalOrIllegal : Obligations.EveryWordIsLegalOrIllegal := by
  refine ⟨fun w => ?total, fun _ => decodeBytes_of_length_ne, decodeBytes_wordLanes⟩
  cases hw : legal w with
  | true => exact .inl ⟨rfl, legal_iff_exists_decode.1 hw⟩
  | false => exact .inr ⟨rfl, decode_of_not_legal hw⟩

/-- Settles O4: a word belongs to a row exactly when it decodes to a command of the row's name (`OpcodeRow.matches_iff_decode`), and
no two rows have one name. -/
theorem legalWordsAreTheTableRows : Obligations.LegalWordsAreTheTableRows := by
  have hrow (w : Word) (i : Instr) (hi : decode w = .ok i) :
      ∃ r ∈ opcodeTable, r.matches w = true ∧ r.mnemonic = i.mnemonic :=
    ⟨i.opcodeRow, i.opcodeRow_mem, (OpcodeRow.matches_iff_decode i.opcodeRow_mem).2 ⟨i, hi, i.opcodeRow_mnemonic⟩,
      i.opcodeRow_mnemonic⟩
  refine fun w => ⟨?legal, fun r hr r' hr' h h' => ?disjoint, hrow w⟩
  case legal =>
    rw [legal_iff_exists_decode]
    constructor
    · rintro ⟨i, hi⟩
      obtain ⟨r, hr, hm, -⟩ := hrow w i hi
      exact ⟨r, hr, hm⟩
    · rintro ⟨r, hr, hm⟩
      obtain ⟨i, hi, -⟩ := (OpcodeRow.matches_iff_decode hr).1 hm
      exact ⟨i, hi⟩
  case disjoint =>
    obtain ⟨i, hi, hn⟩ := (OpcodeRow.matches_iff_decode hr).1 h
    obtain ⟨i', hi', hn'⟩ := (OpcodeRow.matches_iff_decode hr').1 h'
    obtain rfl : i = i' := Except.ok.inj (hi.symm.trans hi')
    exact eq_of_mnemonic_eq hr hr' (hn.trans hn'.symm)

/-- Settles O6: the word column of R100's table is the packed word while every operand fits (`AsmLine.word_eq_encode`), and the
error names the first operand that does not. The error's name is the model's (log 14). -/
theorem assemblerGivesTheCommandWord : Obligations.AssemblerGivesTheCommandWord := fun _ =>
  ⟨fun h => ⟨(assemble_of_fits h).trans (congrArg _ (AsmLine.word_eq_encode h)), AsmLine.wellFormed_instr h⟩,
    assemble_of_not_fits⟩

end Sys2Proof.Machine
end

section
/-! SUPPORT. What a command's acceptance does to one flag, and the step of a CMD write and of `wait`; and the statements they
settle (30_encoding.md R97, R102). -/

namespace Sys2Proof.Machine

/-! ### The frame of a command (R97) -/

/-- Acceptance of a legal word keeps a flag that it has no cause to set: OVR while idle, NCFG while configured, for INIT or while
busy, and every other flag that the command's work does not set (R97). -/
theorem State.acceptWork_keeps_flag {s : State} {isInit : Bool} {w : Work} {f : Flag} (hw : f ∉ w.flags)
    (hovr : f = .ovr → s.q = []) (hncfg : f = .ncfg → s.out.oe = true ∨ isInit = true ∨ s.q ≠ []) :
    (s.acceptWork isInit w).flags.get f = s.flags.get f := by
  rcases s.acceptWork_cases isInit w with ⟨hq, h⟩ | ⟨hq, hi, ho, h⟩ | ⟨-, -, -, h⟩ | ⟨-, -, -, h⟩ <;> rw [h]
  · have hf : Flag.ovr ≠ f := fun hf => hq (hovr hf.symm)
    simp [hf]
  · have hf : Flag.ncfg ≠ f := fun hf => by simpa [hq, hi, ho] using hncfg hf.symm
    simp [hf]
  · simp [hw]
  · simp [hw]

/-- A legal word written while busy is discarded with OVR, whatever its work (R97, R243). -/
theorem State.acceptWork_busy {s : State} (hq : s.q ≠ []) (isInit : Bool) (w : Work) :
    s.acceptWork isInit w = s.discardWith .ovr := by
  rcases s.acceptWork_cases isInit w with ⟨-, h⟩ | ⟨hn, -⟩ | ⟨hn, -⟩ | ⟨hn, -⟩
  · exact h
  all_goals exact absurd hn hq

/-- Only the two forms of DROWD set DROP (R156), and only DROWD and WREG with a device set CLAMP (R151). -/
theorem workOf_flags_cases {cfg : Config} {i : Instr} {f : Flag} (h : f ∈ (workOf cfg i).flags) :
    (f = .drop ∧ ((∃ r p d, i = .drowd r p d) ∨ ∃ r p, i = .drowdAll r p)) ∨
    (f = .clamp ∧ ((∃ r p d, i = .drowd r p d) ∨ ∃ a v d, i = .wreg a v d)) := by
  have hf := workOf_flags h
  cases i with
  | init => simp [workOf, workInit] at h
  | setb => simp [workOf, workSetb, Work.broadcast] at h
  | clear => simp [workOf, workClear] at h
  | drowd r p d => exact hf.imp (⟨·, .inl ⟨r, p, d, rfl⟩⟩) (⟨·, .inl ⟨r, p, d, rfl⟩⟩)
  | drowdAll r p =>
    have hdrop : f = .drop := by
      simp only [workOf, workDrowd] at h
      split at h
      · simp [Work.toTarget, resolveFlags] at h
      · simpa [Work.dropped] using h
    exact .inl ⟨hdrop, .inr ⟨r, p, rfl⟩⟩
  | wreg a v d => exact .inr ⟨mem_resolveFlags (n := cfg.n) (t := .dev d) h, .inr ⟨a, v, d, rfl⟩⟩
  | wregAll => simp [workOf, workWreg, Work.toTarget, resolveFlags] at h

/-! ### The step of a CMD write and of `wait` -/

/-- A host whose access is a write does not wait, so its operation is used up (R102). -/
theorem State.hostRest_of_write {s : State} {addr : Nat} {bytes : List Byte}
    (h : s.hostAccess = some (.write addr bytes)) : s.hostRest = s.host.tail := by
  have hop : s.hostOp ≠ .wait := fun hwait => by simp [State.hostAccess, hwait, HostOp.access] at h
  simp [State.hostRest, hop]

/-- A cycle without reset whose access answers a state goes on from it (R63). -/
theorem step_of_next {s a : State} (hr : s.rstAsserted = false) (ha : s.hostCycle = .next a) :
    step s = .next ((s.passCycle a).takeInputs s.hostRest) := by
  simp [step, hr, ha]

/-- The step of a write of a word to CMD is its acceptance against S(n) and the rest of the cycle (R63, R97). -/
theorem step_of_cmdWrite {s a : State} {w : Word} (hr : s.rstAsserted = false)
    (hacc : s.hostAccess = some (.write s.cfg.base (wordLanes w))) (ha : s.accept w = .next a) :
    step s = .next ((s.passCycle a).takeInputs s.host.tail) := by
  have hcycle : s.hostCycle = .next a :=
    (State.hostCycle_of_access hacc).trans ((s.access_write .cmd w).trans ha)
  rw [step_of_next hr hcycle, State.hostRest_of_write hacc]

/-- STATUS bit 0 is BUSY (R23). -/
theorem State.getLsbD_statusWord_zero (s : State) : s.statusWord.getLsbD 0 = s.busy := s.getLsbD_statusWord 0

/-! ### The statements -/

/-- Settles O29: every command is acceptance of its work (`exec_eq`), which writes the flags, `Q` and `T` alone, and each flag only
for its cause (`State.acceptWork_keeps_flag`). -/
theorem commandsChangeNothingElse : Obligations.CommandsChangeNothingElse := by
  intro i s
  have onlyDropAndClamp {f : Flag} (hd : f ≠ .drop) (hc : f ≠ .clamp) : f ∉ (workOf s.cfg i).flags :=
    fun h => (workOf_flags h).elim hd hc
  obtain ⟨hcfg, hout, htrace, hchain, hcycle, hhost, hrst, hreads⟩ := s.acceptWork_frame (isInit i) (workOf s.cfg i)
  refine ⟨_, exec_eq i s, hcfg, hout, htrace, hchain, hcycle, hhost, hrst, hreads, ?ill, ?ovr, ?ncfg, ?drop, ?clamp, ?busy⟩
  case ill =>
    exact State.acceptWork_keeps_flag (f := .ill) (onlyDropAndClamp (by simp) (by simp)) (by simp) (by simp)
  case ovr =>
    exact fun hq => State.acceptWork_keeps_flag (f := .ovr) (onlyDropAndClamp (by simp) (by simp)) (fun _ => hq) (by simp)
  case ncfg =>
    intro hcause
    have hkept : s.out.oe = true ∨ isInit i = true ∨ s.q ≠ [] := hcause.imp_right (Or.imp_left (congrArg isInit))
    exact State.acceptWork_keeps_flag (f := .ncfg) (onlyDropAndClamp (by simp) (by simp)) (by simp) (fun _ => hkept)
  case drop =>
    intro hd hda
    have hw : Flag.drop ∉ (workOf s.cfg i).flags := fun h => by
      rcases workOf_flags_cases h with ⟨-, ⟨r, p, d, hi⟩ | ⟨r, p, hi⟩⟩ | ⟨hf, -⟩
      · exact hd r p d hi
      · exact hda r p hi
      · contradiction
    exact State.acceptWork_keeps_flag (f := .drop) hw (by simp) (by simp)
  case clamp =>
    intro hd hwr
    have hw : Flag.clamp ∉ (workOf s.cfg i).flags := fun h => by
      rcases workOf_flags_cases h with ⟨hf, -⟩ | ⟨-, ⟨r, p, d, hi⟩ | ⟨a, v, d, hi⟩⟩
      · contradiction
      · exact hd r p d hi
      · exact hwr a v d hi
    exact State.acceptWork_keeps_flag (f := .clamp) hw (by simp) (by simp)
  case busy =>
    intro hq
    rw [State.acceptWork_busy hq]
    exact ⟨rfl, rfl⟩

/-- Settles O7: bytes that decode are the lanes of a word (`exists_word_of_decodeBytes`), and CMD accepts that word. -/
theorem stepRunsTheDecodedCommand : Obligations.StepRunsTheDecodedCommand := by
  refine ⟨fun s bytes i hr hacc hi => ?write, fun s w rest hh => ⟨State.hostAccess_cmd hh, by simp [hh]⟩⟩
  obtain ⟨w, rfl, hw⟩ := exists_word_of_decodeBytes hi
  have ha : s.accept w = exec i s := by simp [State.accept, hw]
  rw [exec_eq] at ha ⊢
  exact step_of_cmdWrite hr hacc ha

/-- Settles O8: an illegal word is discarded with ILL while idle (`State.acceptIllegal_eq`), and the sequencer does not step. -/
theorem illegalWordSetsIllAlone : Obligations.IllegalWordSetsIllAlone := by
  intro s w rest hr hh hq hl
  have hb : s.busy = false := State.busy_eq_false.2 hq
  have ha : s.accept w = .next (s.discardWith .ill) := by
    simp [State.accept, decode_of_not_legal hl, s.acceptIllegal_eq, hb]
  obtain ⟨hout, hqueue, ht, htrace⟩ := s.passCycle_idle (s.discardWith .ill) hb
  refine ⟨_, step_of_cmdWrite hr (State.hostAccess_cmd hh) ha, ?_⟩
  simp [hout, hqueue, ht, htrace, hq, hh, Flags.set]

/-- Settles O20: `wait` reads STATUS, whose bit 0 is BUSY, and stays first while S(n) is busy. -/
theorem waitPollsUntilIdle : Obligations.WaitPollsUntilIdle := by
  intro s rest hr hh
  have ha : s.hostCycle = .next (s.returnRead (s.cfg.base + 0x4) s.statusWord) :=
    (State.hostCycle_of_access (State.hostAccess_of_host hh)).trans (s.access_read .status)
  have hrest : s.hostRest = if s.statusWord.getLsbD 0 then s.host else rest := by
    rw [State.getLsbD_statusWord_zero]
    simp [State.hostRest, State.hostOp, hh]
  exact ⟨_, step_of_next hr ha, by simp, hrest⟩

end Sys2Proof.Machine
end

section
/-! SUPPORT. The events of a frame one by one, how many a command queues, the lines after a frame, and the pair that the bits of
a shift register make; and the statements they settle (40_transport.md R120 to R131; 44_device_chain.md R216). -/

namespace Sys2Proof.Machine

/-! ### Where the bits and the events of a frame stand (R120 to R124) -/

/-- In blocks of `c` elements, element `c k + m` is element `m` of block `k`. -/
theorem getElem?_flatMap_of_length {α β : Type} {f : α → List β} {c : Nat} (hf : ∀ x, (f x).length = c) (l : List α)
    {m : Nat} (hm : m < c) (k : Nat) : (l.flatMap f)[c * k + m]? = l[k]?.bind fun x => (f x)[m]? := by
  induction l generalizing k with
  | nil => simp
  | cons x xs ih =>
    have hx := hf x
    cases k with
    | zero => simp [List.getElem?_append_left (hx.symm ▸ hm)]
    | succ k =>
      have hi : c * (k + 1) + m = (f x).length + (c * k + m) := by rw [hx]; ring
      rw [List.flatMap_cons, hi, List.getElem?_append_right (Nat.le_add_right _ _), Nat.add_sub_cancel_left, ih,
        List.getElem?_cons_succ]

/-- Bit `m` of a byte in the order of sending (R120). -/
theorem byteBits_getElem? (v : Byte) {m : Nat} (h : m < 8) : (byteBits v)[m]? = some (v.getLsbD (7 - m)) := by
  interval_cases m <;> rfl

/-- Bit `m` of a pair in the order of sending (R121): first the address, then the data. -/
theorem pairBits_getElem? (p : Pair) {m : Nat} (h : m < 16) :
    (pairBits p)[m]? = some (if m < 8 then p.addr.getLsbD (7 - m) else p.data.getLsbD (15 - m)) := by
  rw [pairBits]
  split
  case isTrue h8 => rw [List.getElem?_append_left h8, byteBits_getElem? _ h8]
  case isFalse h8 =>
    rw [List.getElem?_append_right (by simpa using h8), byteBits_length, byteBits_getElem? _ (by omega)]
    congr 2
    omega

/-- Bit `m` of slot `j` (R124). -/
theorem frameBits_getElem? (f : Frame) (j : Nat) {m : Nat} (h : m < 16) :
    (frameBits f)[16 * j + m]? =
      f[j]?.map fun p => if m < 8 then p.addr.getLsbD (7 - m) else p.data.getLsbD (15 - m) := by
  rw [frameBits, getElem?_flatMap_of_length pairBits_length f h]
  cases f[j]? with
  | none => rfl
  | some p => exact pairBits_getElem? p h

/-- A frame has 48 events a pair, and LOAD falling and rising (R131). -/
theorem frameEvents_length (f : Frame) : (frameEvents f).length = 48 * f.length + 2 := by
  simp only [frameEvents, List.length_cons, List.length_append, bitsEvents_length, frameBits_length, List.length_nil]
  omega

/-- The last event of a frame is LOAD rising (R124). -/
theorem frameEvents_getElem?_last (f : Frame) : (frameEvents f)[48 * f.length + 1]? = some ⟨.load, true⟩ := by
  have hlast : (frameEvents f).getLast? = some ⟨.load, true⟩ := by
    rw [frameEvents, ← List.cons_append, List.getLast?_concat]
  rw [List.getLast?_eq_getElem?, frameEvents_length] at hlast
  exact hlast

/-- Event `m` of bit `k` of a frame (R122, R124). -/
theorem frameEvents_getElem? {f : Frame} {k m : Nat} (hk : k < 16 * f.length) (hm : m < 3) :
    (frameEvents f)[3 * k + m + 1]? = (frameBits f)[k]?.bind fun x => (bitEvents x)[m]? := by
  have hin : 3 * k + m < ((frameBits f).flatMap bitEvents).length := by
    rw [bitsEvents_length, frameBits_length]
    omega
  rw [frameEvents, List.getElem?_cons_succ, List.getElem?_append_left hin, getElem?_flatMap_of_length bitEvents_length _ hm]

/-- Settles O30: every event of a frame stands in the block of its bit (`frameEvents_getElem?`), and every bit in the block of its
slot (`frameBits_getElem?`). -/
theorem frameEventsBitByBit : Obligations.FrameEventsBitByBit := by
  refine fun f => ⟨frameEvents_length f, frameBits_length f, rfl, frameEvents_getElem?_last f, fun k hk => ?events,
    fun j m _ hm => frameBits_getElem? f j hm⟩
  case events =>
    obtain ⟨x, hx⟩ : ∃ x, (frameBits f)[k]? = some x :=
      ⟨_, List.getElem?_eq_getElem (by rwa [frameBits_length])⟩
    have event {m : Nat} (hm : m < 3) : (frameEvents f)[3 * k + m + 1]? = (bitEvents x)[m]? := by
      rw [frameEvents_getElem? hk hm, hx, Option.bind_some]
    rw [hx]
    exact ⟨event (m := 0) (by decide), event (m := 1) (by decide), event (m := 2) (by decide)⟩

/-! ### How many events a command queues (R131) -/

/-- Frames of `n` pairs in sequence. -/
theorem framesEvents_length {n : Nat} {fs : List Frame} (h : ∀ f ∈ fs, f.length = n) :
    (framesEvents fs).length = (48 * n + 2) * fs.length := by
  induction fs with
  | nil => rfl
  | cons f fs ih =>
    have hf : f.length = n := h f List.mem_cons_self
    rw [framesEvents_cons, List.length_append, frameEvents_length, hf, ih fun g hg => h g (List.mem_cons_of_mem f hg),
      List.length_cons]
    ring

/-- A command queues the events of its frames, and the four setup events if it is INIT (R125). -/
theorem workOf_events_length (cfg : Config) (i : Instr) :
    (workOf cfg i).events.length =
      (if isInit i then 4 else 0) + (48 * cfg.n + 2) * (workOf cfg i).frames.length := by
  rw [Work.events, List.length_append, framesEvents_length fun _ => workOf_frames_length, workOf_setup]
  cases isInit i <;> rfl

/-- A DROWD has one frame with a row 0..7, and none with a row above 7 (R156). -/
theorem workDrowd_frames_length (cfg : Config) (row : Nat) (pattern : Byte) (target : Target) :
    (workDrowd cfg row pattern target).frames.length = if row ≤ 7 then 1 else 0 := by
  by_cases h : row ≤ 7
  · have hrow : rowInRange row = true := decide_eq_true (Nat.lt_succ_of_le h)
    simp [workDrowd, hrow, Work.toTarget, h]
  · have hrow : rowInRange row = false := decide_eq_false fun hlt => h (Nat.le_of_lt_succ hlt)
    simp [workDrowd, hrow, Work.dropped, h]

/-- A command accepted from an idle state leaves its events in the queue, none included (R97). -/
theorem State.acceptWork_q_of_idle {s : State} {isInit : Bool} (hq : s.q = []) (hc : isInit = true ∨ s.out.oe = true) (w : Work) :
    (s.acceptWork isInit w).q = w.events := by
  rcases s.acceptWork_cases isInit w with ⟨hn, -⟩ | ⟨-, hi, ho, -⟩ | ⟨-, -, he, h⟩ | ⟨-, -, -, h⟩
  · exact absurd hq hn
  · simp [hi, ho] at hc
  · rw [h, State.raise_q, hq, he]
  · rw [h]

/-- Settles O31, from the number of frames of each command's work (`workOf_events_length`). -/
theorem eventCountsPerCommand : Obligations.EventCountsPerCommand := by
  intro i s t hq hc ht
  have hc' : isInit i = true ∨ s.out.oe = true := hc.symm.imp_left (congrArg isInit)
  obtain rfl : s.acceptWork (isInit i) (workOf s.cfg i) = t := by simpa [exec_eq] using ht
  rw [State.acceptWork_q_of_idle hq hc', workOf_events_length]
  cases i with
  | init =>
    change 4 + (48 * s.cfg.n + 2) * 13 = 624 * s.cfg.n + 30
    ring
  | clear =>
    change 0 + (48 * s.cfg.n + 2) * 8 = 384 * s.cfg.n + 16
    ring
  | setb | wreg | wregAll => simp [isInit, workOf, workSetb, workWreg, Work.broadcast, Work.toTarget]
  | drowd | drowdAll => simp [isInit, workOf, workDrowd_frames_length]

/-! ### The lines after a frame (R126) -/

/-- One bit leaves CLK high and its level on DATA (R122). -/
theorem foldl_bitEvents (x : Bool) (o : Out) : (bitEvents x).foldl Out.perform o = ⟨x, true, o.load, o.oe⟩ := rfl

/-- Bits leave LOAD and OE as they were. -/
theorem foldl_bitsEvents_load_oe (bs : List Bool) (o : Out) :
    ((bs.flatMap bitEvents).foldl Out.perform o).load = o.load ∧ ((bs.flatMap bitEvents).foldl Out.perform o).oe = o.oe := by
  induction bs generalizing o with
  | nil => exact ⟨rfl, rfl⟩
  | cons b bs ih =>
    rw [List.flatMap_cons, List.foldl_append, foldl_bitEvents]
    exact ih _

/-- After some bits the lines hold the last of them. -/
theorem foldl_bitsEvents_concat (bs : List Bool) (x : Bool) (o : Out) :
    ((bs ++ [x]).flatMap bitEvents).foldl Out.perform o = ⟨x, true, o.load, o.oe⟩ := by
  obtain ⟨hload, hoe⟩ := foldl_bitsEvents_load_oe bs o
  rw [List.flatMap_append, List.foldl_append, List.flatMap_singleton, foldl_bitEvents, hload, hoe]

/-- The last bit of a frame is the least significant bit of its last data byte (R120, R121). -/
theorem frameBits_concat (f : Frame) (p : Pair) : ∃ bs, frameBits (f ++ [p]) = bs ++ [p.data.getLsbD 0] := by
  refine ⟨frameBits f ++ (pairBits p).dropLast, ?_⟩
  rw [frameBits, List.flatMap_append, List.flatMap_singleton, List.append_assoc]
  rfl

/-- Settles O32: the bits of the frame leave the last one on DATA and CLK high (`foldl_bitsEvents_concat`), and LOAD rises after
them. -/
theorem lineLevelsAfterFrame : Obligations.LineLevelsAfterFrame := by
  intro f p o
  obtain ⟨bs, hbs⟩ := frameBits_concat f p
  rw [frameEvents, hbs, List.foldl_cons, List.foldl_append, foldl_bitsEvents_concat]
  rfl

/-! ### The pair that a shift register holds (R121, R216) -/

/-- Bit `k` of the byte that bits make is the bit `k` places before the last. -/
theorem getLsbD_byteOfBits (bits : List Bool) {k : Nat} (hk : k < 8) :
    (byteOfBits bits).getLsbD k = bits.reverse.getD k false := by
  induction bits using List.reverseRecOn generalizing k with
  | nil => simp [byteOfBits]
  | append_singleton bits b ih =>
    have hb : byteOfBits (bits ++ [b]) = byteOfBits bits <<< 1 ||| (BitVec.ofBool b).zeroExtend 8 := by
      simp [byteOfBits]
    rw [hb, List.reverse_concat]
    cases k with
    | zero => simp
    | succ k =>
      have hk' : k < 8 := Nat.lt_of_succ_lt hk
      simpa [hk, BitVec.getLsbD_eq_getElem hk'] using ih hk'

theorem byteBits_reverse (v : Byte) : (byteBits v).reverse = (List.range 8).map v.getLsbD := rfl

/-- The bits of a byte make that byte (R120). -/
theorem byteOfBits_byteBits (v : Byte) : byteOfBits (byteBits v) = v := by
  refine BitVec.eq_of_getLsbD_eq fun k hk => ?_
  rw [getLsbD_byteOfBits _ hk, byteBits_reverse]
  simp [hk]

/-- Eight bits are the bits of the byte they make. -/
theorem byteBits_byteOfBits {bits : List Bool} (h : bits.length = 8) : byteBits (byteOfBits bits) = bits := by
  refine List.reverse_injective (List.ext_getElem (by simp [h]) fun k hk hk' => ?_)
  have hk8 : k < 8 := by simpa using hk
  simp only [byteBits_reverse, List.getElem_map, List.getElem_range, getLsbD_byteOfBits _ hk8, List.getD_eq_getElem _ _ hk']

/-- Known bits are read back. -/
theorem knownBits_map_some (bits : List Bool) : knownBits (bits.map some) = some bits := by
  induction bits with
  | nil => rfl
  | cons b bits ih => simp [knownBits, ih]

/-- With one bit unknown the bits are not known. -/
theorem knownBits_of_none_mem {sr : List TriBit} (h : none ∈ sr) : knownBits sr = none := by
  induction sr with
  | nil => contradiction
  | cons b sr ih =>
    cases b with
    | none => rfl
    | some b => simp [knownBits, ih (by simpa using h)]

/-- Bits of which none is unknown are all known. -/
theorem exists_map_some_of_none_notMem {sr : List TriBit} (h : none ∉ sr) : ∃ bits : List Bool, sr = bits.map some := by
  refine ⟨sr.filterMap id, ?_⟩
  induction sr with
  | nil => rfl
  | cons b sr ih =>
    obtain ⟨hb, hsr⟩ : ¬ none = b ∧ none ∉ sr := by simpa using h
    obtain ⟨x, rfl⟩ := Option.ne_none_iff_exists'.1 (Ne.symm hb)
    simpa using ih hsr

/-- The pair that known bits make (R216). -/
theorem srPair_map_some (bits : List Bool) :
    srPair (bits.map some) = some ⟨byteOfBits (bits.take 8), byteOfBits (bits.drop 8)⟩ := by
  simp [srPair, knownBits_map_some]

/-- Sixteen bits are the bits of a pair. -/
theorem exists_pairBits {bits : List Bool} (h : bits.length = 16) : ∃ p, bits = pairBits p := by
  refine ⟨⟨byteOfBits (bits.take 8), byteOfBits (bits.drop 8)⟩, ?_⟩
  rw [pairBits, byteBits_byteOfBits (by simp [h]), byteBits_byteOfBits (by simp [h]), List.take_append_drop]

/-- A shift register that has received the bits of a pair holds that pair (R121, R216). -/
theorem srPair_pairBits (p : Pair) : srPair ((pairBits p).map some) = some p := by
  have haddr : (pairBits p).take 8 = byteBits p.addr := rfl
  have hdata : (pairBits p).drop 8 = byteBits p.data := rfl
  rw [srPair_map_some, haddr, hdata, byteOfBits_byteBits, byteOfBits_byteBits]

/-- Settles O45: a byte and its bits determine each other (`byteOfBits_byteBits`, `byteBits_byteOfBits`), and so do a pair and the
bits of a shift register. -/
theorem shiftRegisterHoldsThePairSent : Obligations.ShiftRegisterHoldsThePairSent := by
  refine ⟨srPair_pairBits, fun sr hlen => ⟨fun hnone => ?unknown, fun hknown => ?known⟩⟩
  case unknown => simp [srPair, knownBits_of_none_mem hnone]
  case known =>
    obtain ⟨bits, rfl⟩ := exists_map_some_of_none_notMem hknown
    obtain ⟨p, rfl⟩ := exists_pairBits (by simpa using hlen)
    exact ⟨p, rfl⟩

end Sys2Proof.Machine
end

section
/-! SUPPORT. What the sequencer does in one cycle and over the whole queue of an accepted command, and which events write the output
enable; and the statements they settle (40_transport.md R127, R128; 20_memory.md R68, R69). -/

namespace Sys2Proof.Machine

/-! ### One cycle (R128) -/

/-- Settles O35: the busy case of `step_machine`, whatever the host does. -/
theorem busyCycleTakesOneSequencerStep : Obligations.BusyCycleTakesOneSequencerStep := by
  intro s t e rest h hr hq
  rcases step_machine h hr with ⟨hq', -⟩ | ⟨e', rest', hq', hseq⟩
  · simp [hq] at hq'
  obtain ⟨rfl, rfl⟩ : e = e' ∧ rest = rest' := by simpa [hq] using hq'
  rcases hseq with ⟨ht, hperformed⟩ | ⟨ht, hcounted⟩
  · exact ⟨fun _ => hperformed, fun hne => absurd ht hne⟩
  · exact ⟨fun he => absurd he ht, fun _ => hcounted⟩

/-- Acceptance of a legal word that leaves nothing queued leaves T alone (R97). -/
theorem State.acceptWork_t {s : State} {isInit : Bool} {w : Work} (hq : (s.acceptWork isInit w).q = []) :
    (s.acceptWork isInit w).t = s.t := by
  rcases s.acceptWork_cases isInit w with ⟨-, h⟩ | ⟨-, -, -, h⟩ | ⟨-, -, -, h⟩ | ⟨-, -, he, h⟩ <;> rw [h] at hq ⊢
  · rfl
  · rfl
  · rfl
  · exact absurd hq he

/-- The access of a cycle that leaves nothing queued leaves T alone (R28, R97). -/
theorem State.hostCycle_t {s a : State} (h : s.hostCycle = .next a) (hq : a.q = []) : a.t = s.t := by
  unfold State.hostCycle at h
  split at h
  · rcases State.access_cases h with ⟨_, _, _, -, -, rfl⟩ | ⟨_, _, _, -, -, -, ⟨i, -, rfl⟩ | ⟨-, rfl⟩⟩ | ⟨_, _, _, -, -, -, rfl⟩ |
      ⟨_, _, _, -, -, -, rfl⟩
    · rfl
    · exact State.acceptWork_t hq
    · rw [s.acceptIllegal_eq, State.discardWith_t]
    · rfl
    · rfl
  · obtain rfl : s = a := by simpa using h
    rfl

/-- An idle cycle that leaves nothing queued leaves T alone (R28). -/
theorem step_t_of_idle {s t : State} (h : step s = .next t) (hr : s.rstAsserted = false) (hq : s.q = []) (htq : t.q = []) :
    t.t = s.t := by
  rcases step_next h with ⟨hr', -⟩ | ⟨-, a, ha, rfl⟩
  · simp [hr] at hr'
  obtain ⟨-, haq, hat, -⟩ := s.passCycle_idle a (State.busy_eq_false.2 hq)
  exact hat.trans (State.hostCycle_t ha (haq.symm.trans htq))

/-- Settles O36: the idle case of `step_machine`; T changes only with the queue (`step_t_of_idle`). -/
theorem idleCyclePerformsNoEvent : Obligations.IdleCyclePerformsNoEvent := by
  intro s t h hr hq
  rcases step_machine h hr with ⟨-, hout, htrace, hqt⟩ | ⟨e, rest, hq', -⟩
  · refine ⟨hout, htrace, fun hoe => ?chain, step_t_of_idle h hr hq, fun hne => ?queued⟩
    case chain => rw [step_chain h, hout, Chain.observe_same hoe]
    case queued =>
      rcases hqt with ⟨hempty, -⟩ | ⟨-, -, -, ht⟩
      · exact absurd hempty hne
      · exact ht
  · simp [hq] at hq'

/-! ### Who writes the output enable (R127) -/

/-- Of the events of a command only the first one with setup events writes OE, and it writes 1 (R127, R181). -/
theorem Work.events_getElem?_oe {w : Work} {k : Nat} {e : Event} (h : w.events[k]? = some e) (hl : e.line = .oe) :
    w.setup = true ∧ k = 0 ∧ e.level = true := by
  have hlevel : e.level = true := Work.events_oe (List.mem_of_getElem? h) hl
  have hframes : e ∉ framesEvents w.frames := fun he => framesEvents_line he hl
  cases hs : w.setup with
  | false => exact absurd (List.mem_of_getElem? (by simpa [Work.events, hs] using h)) hframes
  | true =>
    cases k with
    | zero => exact ⟨rfl, rfl, hlevel⟩
    | succ k =>
      have he : e ∈ [⟨.load, true⟩, ⟨.clk, false⟩, ⟨.data, false⟩] ++ framesEvents w.frames :=
        List.mem_of_getElem? (by simpa [Work.events, hs, setupEvents] using h)
      rcases List.mem_append.1 he with he | he
      · simp only [List.mem_cons, List.not_mem_nil, or_false] at he
        rcases he with rfl | rfl | rfl <;> contradiction
      · exact absurd he hframes

/-- From an idle state a command leaves its events in the queue, or nothing (R97). -/
theorem State.acceptWork_q_cases {s : State} (hq : s.q = []) (isInit : Bool) (w : Work) :
    (s.acceptWork isInit w).q = [] ∨ (s.acceptWork isInit w).q = w.events := by
  rcases s.acceptWork_cases isInit w with ⟨hn, -⟩ | ⟨-, -, -, h⟩ | ⟨-, hc, -⟩ | ⟨-, hc, -⟩
  · exact absurd hq hn
  · exact .inl (h ▸ hq)
  · exact .inr (State.acceptWork_q_of_idle hq hc w)
  · exact .inr (State.acceptWork_q_of_idle hq hc w)

theorem eq_init_of_isInit {i : Instr} (h : isInit i = true) : i = .init := by
  cases i with
  | init => rfl
  | setb | clear | drowd | drowdAll | wreg | wregAll => contradiction

/-- Without a reset, a step from a state that meets the invariant keeps the lines driven (R127). -/
theorem State.Inv.step_oe {s t : State} (hs : s.Inv) (h : step s = .next t) (hr : s.rstAsserted = false)
    (hoe : s.out.oe = true) : t.out.oe = true := by
  rcases step_machine h hr with ⟨-, ho, -⟩ | ⟨e, rest, hq, ⟨-, ho, -⟩ | ⟨-, ho, -⟩⟩
  · rw [ho, hoe]
  · rw [ho]
    exact Out.perform_oe_eq_true (hs.oeOnly e (by simp [hq])) (.inl hoe)
  · rw [ho, hoe]

/-- Settles O39: an event writes the register it names by definition; the OE events of a command by `Work.events_getElem?_oe`; and
no event of a reachable queue clears OE (`State.Inv.step_oe`). -/
theorem onlyResetClearsOutputEnable : Obligations.OnlyResetClearsOutputEnable := by
  refine ⟨fun _ _ => ⟨rfl, rfl, rfl, rfl⟩, fun i s t k e hq ht he hl => ?queued, fun s t hs h hoe hoe' => ?cleared⟩
  case queued =>
    obtain rfl : s.acceptWork (isInit i) (workOf s.cfg i) = t := by simpa [exec_eq] using ht
    rcases State.acceptWork_q_cases hq (isInit i) (workOf s.cfg i) with hq' | hq' <;> rw [hq'] at he
    · simp at he
    · obtain ⟨hsetup, hk, hlevel⟩ := Work.events_getElem?_oe he hl
      exact ⟨eq_init_of_isInit ((workOf_setup s.cfg i).symm.trans hsetup), hk, hlevel⟩
  case cleared =>
    by_contra hr
    have hdriven : t.out.oe = true := hs.step_oe h (by simpa using hr) hoe
    simp [hdriven] at hoe'

/-! ### Runs -/

section Run

variable {M : Host.Core} {s t : M.State} {k : Nat}

/-- A run of any machine goes on from the state after its first step. -/
theorem coreRun_succ_of_step (h : M.step s = .next t) (k : Nat) : M.run (k + 1) s = M.run k t := by
  rw [Host.Core.run, h]

/-- A run of any machine that stops on nothing has a first step that answers a state. -/
theorem coreRun_succ_eq_next (h : M.run (k + 1) s = .next t) : ∃ u, M.step s = .next u ∧ M.run k u = .next t := by
  rw [Host.Core.run] at h
  cases hs : M.step s with
  | next u => exact ⟨u, rfl, by simpa [hs] using h⟩
  | fault r | refused r => simp [hs] at h

end Run

/-- A run goes on from the state after its first cycle. -/
theorem runFor_succ_of_step {s t : State} (h : step s = .next t) (k : Nat) : runFor (k + 1) s = runFor k t :=
  coreRun_succ_of_step (M := Sys2Proof.core) h k

/-- A run that stops on nothing has a first cycle that answers a state. -/
theorem runFor_succ_eq_next {s t : State} {k : Nat} (h : runFor (k + 1) s = .next t) :
    ∃ u, step s = .next u ∧ runFor k u = .next t :=
  coreRun_succ_eq_next (M := Sys2Proof.core) h

/-- A run goes on from the state after its first `j` cycles. -/
theorem runFor_add {s t : State} {j : Nat} (h : runFor j s = .next t) (k : Nat) : runFor (j + k) s = runFor k t := by
  induction j generalizing s with
  | zero =>
    obtain rfl : s = t := Host.Outcome.next.inj h
    rw [Nat.zero_add]
  | succ j ih =>
    obtain ⟨u, hu, hut⟩ := runFor_succ_eq_next h
    rw [Nat.succ_add, runFor_succ_of_step hu, ih hut]

/-- A run keeps the invariant. -/
theorem runFor_inv {s t : State} {k : Nat} (hs : s.Inv) (h : runFor k s = .next t) : t.Inv := by
  induction k generalizing s with
  | zero =>
    obtain rfl : s = t := Host.Outcome.next.inj h
    exact hs
  | succ k ih =>
    obtain ⟨u, hu, hut⟩ := runFor_succ_eq_next h
    exact ih (step_inv hs hu) hut

/-- A step uses up one sample of the reset input. -/
theorem step_rst {s t : State} (h : step s = .next t) : t.rst = s.rst.tail := by
  rcases step_next h with ⟨-, rfl⟩ | ⟨-, a, ha, rfl⟩
  · obtain ⟨rs, e⟩ := s.hostInReset_eq
    simp [e]
  · simp [(State.hostCycle_effect ha).1.rst]

/-- Lines that keep their levels change nothing in the chain: driven ones do not act on it (R210), and undriven ones leave it
unknown (R219). -/
theorem State.Inv.observe_same {s : State} (hs : s.Inv) : s.chain.observe s.cfg s.out s.out = s.chain := by
  cases ho : s.out.oe with
  | true => exact Chain.observe_same ho
  | false => rw [Chain.observe_undriven (.inl ho), hs.undriven ho]

/-! ### The queue, with no input to come (R68, R69, R128) -/

/-- No host operation and no reset sample is to come. -/
structure State.Quiet (s : State) : Prop where
  host : s.host = []
  rst : s.rst = []

/-- The state after the event `e`, at the head of the queue, is performed in cycle `n` (R128). -/
def State.performHead (s : State) (e : Event) (rest : List Event) (n : Nat) : State :=
  { s with
    out := s.out.perform e
    q := rest
    t := 0
    trace := s.trace ++ [.emit e n]
    chain := s.chain.observe s.cfg s.out (s.out.perform e)
    cycle := n + 1 }

namespace State.Quiet

variable {s : State} {e : Event} {rest : List Event}

/-- With no input to come a step is what passes beside the access. -/
theorem step_eq (hquiet : s.Quiet) : step s = .next ((s.passCycle s).takeInputs s.host) := by
  have hreset : s.rstAsserted = false := by simp [State.rstAsserted, hquiet.rst]
  have hcycle : s.hostCycle = .next s := by
    simp [State.hostCycle, State.hostAccess, State.hostOp, HostOp.access, hquiet.host]
  have hrest : s.hostRest = s.host := by simp [State.hostRest, hquiet.host]
  rw [step_of_next hreset hcycle, hrest]

theorem rst_tail (hquiet : s.Quiet) : s.rst.tail = s.rst := by simp [hquiet.rst]

/-- Within the slot of the first event T counts (R128). -/
theorem step_counted (hquiet : s.Quiet) (hs : s.Inv) (hq : s.q = e :: rest) (ht : s.t ≠ s.cfg.eventCycles - 1) :
    step s = .next { s with t := s.t + 1, cycle := s.cycle + 1 } := by
  have hbusy : s.busy = true := State.busy_eq_true.2 (by simp [hq])
  rcases State.sequence_cons hq with ⟨ht', -⟩ | ⟨-, hseq⟩
  · exact absurd ht' ht
  · simp [hquiet.step_eq, State.passCycle, State.takeInputs, hbusy, hseq, hs.observe_same, hquiet.rst_tail]

/-- At the end of its slot the first event is performed (R128). -/
theorem step_performed (hquiet : s.Quiet) (hq : s.q = e :: rest) (ht : s.t = s.cfg.eventCycles - 1) :
    step s = .next (s.performHead e rest s.cycle) := by
  have hbusy : s.busy = true := State.busy_eq_true.2 (by simp [hq])
  rcases State.sequence_cons hq with ⟨-, hseq⟩ | ⟨ht', -⟩
  · simp [hquiet.step_eq, State.passCycle, State.takeInputs, State.performHead, hbusy, hseq, hquiet.rst_tail]
  · exact absurd ht ht'

/-- What is left of the slot of the first event: busy until its last cycle, in which the event is performed (R128). -/
theorem runFor_slot (hquiet : s.Quiet) (hs : s.Inv) (hq : s.q = e :: rest) {k : Nat} (hk : s.t + k + 1 = s.cfg.eventCycles) :
    (∀ j, j ≤ k → ∃ t, runFor j s = .next t ∧ t.busy = true) ∧
    runFor (k + 1) s = .next (s.performHead e rest (s.cycle + k)) := by
  have hbusy : s.busy = true := State.busy_eq_true.2 (by simp [hq])
  induction k generalizing s with
  | zero =>
    refine ⟨fun j hj => ?_, runFor_succ_of_step (hquiet.step_performed hq (by omega)) 0⟩
    obtain rfl : j = 0 := Nat.le_zero.1 hj
    exact ⟨s, rfl, hbusy⟩
  | succ k ih =>
    have hstep := hquiet.step_counted hs hq (by omega)
    obtain ⟨hbefore, hlast⟩ :=
      ih (s := { s with t := s.t + 1, cycle := s.cycle + 1 }) ⟨hquiet.host, hquiet.rst⟩ (step_inv hs hstep) hq
        (by change s.t + 1 + k + 1 = s.cfg.eventCycles; omega) hbusy
    refine ⟨fun j hj => ?_, ?_⟩
    · cases j with
      | zero => exact ⟨s, rfl, hbusy⟩
      | succ j =>
        rw [runFor_succ_of_step hstep]
        exact hbefore j (Nat.le_of_succ_le_succ hj)
    · have hcycle : s.cycle + (k + 1) = s.cycle + 1 + k := by omega
      rw [runFor_succ_of_step hstep, hlast, hcycle]
      rfl

end State.Quiet

/-- The first event is performed C cycles after acceptance, and the others as if it had been accepted then (R128). -/
theorem emitted_cons (n c : Nat) (e : Event) (es : List Event) :
    emitted n c (e :: es) = .emit e (n + c) :: emitted (n + c) c es := by
  have hlater (k : Nat) : n + (k + 1 + 1) * c = n + c + (k + 1) * c := by ring
  simp [emitted, hlater]

/-- The whole queue performed (R68, R69, R128): busy for C cycles an event, each event in the trace with its cycle, and the lines
and the chain as the events in order make them. The command was accepted in cycle `n`, the cycle before. -/
theorem State.Quiet.runFor_queue {s : State} {es : List Event} {n : Nat} (hquiet : s.Quiet) (hs : s.Inv) (hq : s.q = es)
    (ht : s.q ≠ [] → s.t = 0) (hn : s.cycle = n + 1) :
    (∀ j, j < es.length * s.cfg.eventCycles → ∃ t, runFor j s = .next t ∧ t.busy = true) ∧
    ∃ t, runFor (es.length * s.cfg.eventCycles) s = .next t ∧ t.busy = false ∧
      t.trace = s.trace ++ emitted n s.cfg.eventCycles es ∧
      (t.out, t.chain) = performAll s.cfg es (s.out, s.chain) ∧ t.flags = s.flags ∧ t.cfg = s.cfg := by
  induction es generalizing s n with
  | nil =>
    have hrun : runFor (([] : List Event).length * s.cfg.eventCycles) s = .next s := by
      rw [List.length_nil, Nat.zero_mul]
      rfl
    exact ⟨by simp, s, hrun, State.busy_eq_false.2 hq, by simp [emitted], rfl, rfl, rfl⟩
  | cons e es ih =>
    obtain ⟨k, hk⟩ : ∃ k, s.cfg.eventCycles = k + 1 := Nat.exists_eq_add_one.2 hs.eventCycles_pos
    have ht0 : s.t = 0 := ht (by simp [hq])
    obtain ⟨hslot, hhead⟩ := hquiet.runFor_slot hs hq (k := k) (by omega)
    have hcycle : s.cycle + k = n + s.cfg.eventCycles := by omega
    rw [hcycle, ← hk] at hhead
    obtain ⟨hbusy, t, hrun, hidle, htrace, hlines, hflags, hcfg⟩ :=
      ih (s := s.performHead e es (n + s.cfg.eventCycles)) (n := n + s.cfg.eventCycles) ⟨hquiet.host, hquiet.rst⟩
        (runFor_inv hs hhead) rfl (fun _ => rfl) rfl
    have hlen : (e :: es).length * s.cfg.eventCycles = s.cfg.eventCycles + es.length * s.cfg.eventCycles := by
      rw [List.length_cons]
      ring
    rw [hlen]
    refine ⟨fun j hj => ?busy, t, (runFor_add hhead _).trans hrun, hidle, ?trace, hlines, hflags, hcfg⟩
    case busy =>
      rcases Nat.lt_or_ge j s.cfg.eventCycles with hin | hout
      · exact hslot j (by omega)
      · obtain ⟨j, rfl⟩ := Nat.exists_eq_add_of_le hout
        rw [runFor_add hhead]
        exact hbusy j (Nat.lt_of_add_lt_add_left hj)
    case trace =>
      rw [htrace, emitted_cons]
      exact List.append_assoc _ [_] _

/-- Settles O37: the cycle of acceptance performs no event (`idleCyclePerformsNoEvent`), and from the state after it the queue is
performed whole (`State.Quiet.runFor_queue`). -/
theorem acceptedCommandIsPerformedWhole : Obligations.AcceptedCommandIsPerformedWhole := by
  intro i s a hs hwf hq _ hrst hhost ha
  have hreset : s.rstAsserted = false := by simp [State.rstAsserted, hrst]
  have haccept : s.accept (encode i) = .next a := by simp [State.accept, decode_encode hwf, ha]
  have hstep : step s = .next ((s.passCycle a).takeInputs []) := by
    rw [step_of_cmdWrite hreset (State.hostAccess_cmd hhost) haccept, hhost, List.tail_cons]
  obtain ⟨hout, htrace, -, -, ht⟩ := idleCyclePerformsNoEvent s _ hstep hreset hq
  obtain ⟨-, hqueue, -, -⟩ := s.passCycle_idle a (State.busy_eq_false.2 hq)
  have hcfg := step_cfg hstep
  have hchain : ((s.passCycle a).takeInputs []).chain = s.chain := by rw [step_chain hstep, hout, hs.observe_same]
  have hquiet : ((s.passCycle a).takeInputs []).Quiet := ⟨rfl, by rw [step_rst hstep, hrst, List.tail_nil]⟩
  have hrun := hquiet.runFor_queue (step_inv hs hstep) hqueue ht rfl
  rw [hcfg, hout, hchain, htrace] at hrun
  obtain ⟨hbusy, t, hend, hidle, hemitted, hlines, hflags, hcfg'⟩ := hrun
  refine ⟨fun j hj hj' => ?busy, t, (runFor_succ_of_step hstep _).trans hend, hidle, hemitted, hlines, ?flags, hcfg'⟩
  case busy =>
    obtain ⟨j, rfl⟩ := Nat.exists_eq_add_of_le' hj
    rw [runFor_succ_of_step hstep]
    exact hbusy j hj'
  case flags => rw [hflags, State.takeInputs_flags, State.passCycle_flags]

end Sys2Proof.Machine
end

section
/-! SUPPORT. What one frame does to the devices: its bits push out whatever the shift registers held, and LOAD rising writes to every
device the pair that has come to rest in it (44_device_chain.md R211, R215, R216, R221). -/

namespace Sys2Proof.Machine

/-! ### The chain as one long shift register (R211, R215) -/

/-- The bits of all shift registers, the one about to leave the last device first and the one that came in last at the end. -/
def chainBits (ds : List Device) : List TriBit := (ds.reverse.map (·.sr)).flatten

@[simp] theorem chainBits_nil : chainBits [] = [] := rfl

@[simp] theorem chainBits_cons (d : Device) (ds : List Device) : chainBits (d :: ds) = chainBits ds ++ d.sr := by
  simp [chainBits]

theorem chainBits_length {ds : List Device} (h : ∀ d ∈ ds, d.sr.length = 16) : (chainBits ds).length = 16 * ds.length := by
  induction ds with
  | nil => rfl
  | cons d ds ih =>
    obtain ⟨hd, hds⟩ := List.forall_mem_cons.1 h
    rw [chainBits_cons, List.length_append, ih hds, hd, List.length_cons, Nat.mul_succ]

/-- A register that is not empty is its DOUT bit and the rest (R211). -/
theorem Device.sr_eq_dout_cons {d : Device} (h : d.sr ≠ []) : d.sr = d.dout :: d.sr.tail := by
  obtain ⟨b, bs, hb⟩ := List.exists_cons_of_ne_nil h
  simp [Device.dout, hb]

/-- A shift of every device is one shift of the whole chain (R211, R215). -/
theorem chainBits_shiftDevices {din : TriBit} {ds : List Device} (h : ∀ d ∈ ds, d.sr.length = 16) :
    chainBits (shiftDevices din ds) = (chainBits ds ++ [din]).tail := by
  induction ds generalizing din with
  | nil => rfl
  | cons d ds ih =>
    obtain ⟨hd, hds⟩ := List.forall_mem_cons.1 h
    have hsr : d.sr = d.dout :: d.sr.tail := Device.sr_eq_dout_cons fun he => by simp [he] at hd
    have hne : chainBits ds ++ [d.dout] ≠ [] := by simp
    calc chainBits (shiftDevices din (d :: ds))
        = (chainBits ds ++ [d.dout]).tail ++ (d.sr.tail ++ [din]) := by
          rw [shiftDevices, chainBits_cons, ih hds, Device.shiftIn]
      _ = (chainBits ds ++ (d.dout :: d.sr.tail) ++ [din]).tail := by
          rw [← List.tail_append_of_ne_nil hne]
          simp
      _ = (chainBits (d :: ds) ++ [din]).tail := by rw [← hsr, chainBits_cons]

/-- No shift writes a register (R215). -/
theorem shiftDevices_map_regs (din : TriBit) (ds : List Device) :
    (shiftDevices din ds).map (·.regs) = ds.map (·.regs) := by
  induction ds generalizing din with
  | nil => rfl
  | cons d ds ih => simp [shiftDevices, Device.shiftIn, ih]

/-! ### Many shifts, one for each bit sent -/

/-- The devices after these bits, in the order of sending, have entered the first of them. -/
def shiftBits (bs : List Bool) (ds : List Device) : List Device := bs.foldl (fun ds b => shiftDevices (some b) ds) ds

@[simp] theorem shiftBits_nil (ds : List Device) : shiftBits [] ds = ds := rfl

@[simp] theorem shiftBits_cons (b : Bool) (bs : List Bool) (ds : List Device) :
    shiftBits (b :: bs) ds = shiftBits bs (shiftDevices (some b) ds) := rfl

@[simp] theorem shiftBits_length (bs : List Bool) (ds : List Device) : (shiftBits bs ds).length = ds.length := by
  induction bs generalizing ds with
  | nil => rfl
  | cons b bs ih => rw [shiftBits_cons, ih, shiftDevices_length]

theorem shiftBits_map_regs (bs : List Bool) (ds : List Device) :
    (shiftBits bs ds).map (·.regs) = ds.map (·.regs) := by
  induction bs generalizing ds with
  | nil => rfl
  | cons b bs ih => rw [shiftBits_cons, ih, shiftDevices_map_regs]

theorem shiftBits_sr_length {bs : List Bool} {ds : List Device} (h : ∀ d ∈ ds, d.sr.length = 16) :
    ∀ d ∈ shiftBits bs ds, d.sr.length = 16 := by
  induction bs generalizing ds with
  | nil => exact h
  | cons b bs ih => exact ih (shiftDevices_sr_length h)

/-- The bits sent follow those the chain held, and as many leave it. -/
theorem chainBits_shiftBits (bs : List Bool) {ds : List Device} (h : ∀ d ∈ ds, d.sr.length = 16) :
    chainBits (shiftBits bs ds) = (chainBits ds ++ bs.map some).drop bs.length := by
  induction bs generalizing ds with
  | nil => simp
  | cons b bs ih =>
    have hne : chainBits ds ++ [some b] ≠ [] := by simp
    rw [shiftBits_cons, ih (shiftDevices_sr_length h), chainBits_shiftDevices h, ← List.tail_append_of_ne_nil hne,
      List.drop_tail]
    simp

/-- Once as many bits have been sent as the chain holds, it holds the bits sent, whatever it held before. -/
theorem chainBits_shiftBits_of_length {bs : List Bool} {ds : List Device} (h : ∀ d ∈ ds, d.sr.length = 16)
    (hbs : bs.length = 16 * ds.length) : chainBits (shiftBits bs ds) = bs.map some := by
  rw [chainBits_shiftBits bs h, hbs, ← chainBits_length h, List.drop_left]

/-- After a frame of a pair for each device, the pairs stand in the shift registers in the reverse order of sending (R150, R221). -/
theorem shiftBits_frameBits_map_sr {f : Frame} {ds : List Device} (h : ∀ d ∈ ds, d.sr.length = 16)
    (hf : f.length = ds.length) :
    (shiftBits (frameBits f) ds).map (·.sr) = f.reverse.map fun p => (pairBits p).map some := by
  have hbits : chainBits (shiftBits (frameBits f) ds) = (f.map fun p => (pairBits p).map some).flatten := by
    rw [chainBits_shiftBits_of_length h (by rw [frameBits_length, hf]), frameBits, List.map_flatMap]
    rfl
  have hblocks : ((shiftBits (frameBits f) ds).reverse.map (·.sr)).map List.length =
      (f.map fun p => (pairBits p).map some).map List.length := by
    have h16 : ∀ n ∈ ((shiftBits (frameBits f) ds).reverse.map (·.sr)).map List.length, n = 16 := by
      simpa using shiftBits_sr_length h
    rw [List.eq_replicate_of_mem h16]
    simp [hf, Function.comp_def]
  have hrev := List.eq_iff_flatten_eq.2 ⟨hbits, hblocks⟩
  rw [List.map_reverse, ← hrev, List.map_reverse, List.reverse_reverse]

/-! ### The events of a frame (R122, R124) -/

/-- The chain after these bits, sent while LOAD is low. -/
def Chain.sendBits (bs : List Bool) (c : Chain) : Chain := ⟨shiftBits bs c.devices, c.ec.map (· + bs.length)⟩

/-- One bit, sent while LOAD is low: CLK falling and DATA move nothing, and CLK rising shifts DATA in (R122, R215). -/
theorem performAll_bitEvents {cfg : Config} {o : Out} {c : Chain} (x : Bool) (hoe : o.oe = true) (hload : o.load = false) :
    performAll cfg (bitEvents x) (o, c) = (⟨x, true, false, true⟩, c.sendBits [x]) := by
  have hclk : (o.perform ⟨.clk, false⟩).oe = true := hoe
  have hdata : ((o.perform ⟨.clk, false⟩).perform ⟨.data, x⟩).oe = true := hoe
  have hlow : ((o.perform ⟨.clk, false⟩).perform ⟨.data, x⟩).clk = false := rfl
  simp only [bitEvents, performAll_cons, performAll_nil, performOn, Chain.observe_clkLow hoe, Chain.observe_data hclk,
    Chain.observe_clkRise hdata hlow]
  simp [Out.perform, Chain.clkRise, Chain.sendBits, Out.line, hoe, hload]

/-- Bits sent while LOAD is low enter the chain in order, and EC counts them (R215). -/
theorem performAll_bitsEvents {cfg : Config} {o : Out} {c : Chain} (bs : List Bool) (hoe : o.oe = true)
    (hload : o.load = false) : (performAll cfg (bs.flatMap bitEvents) (o, c)).2 = c.sendBits bs := by
  induction bs generalizing o c with
  | nil => simp [Chain.sendBits]
  | cons b bs ih =>
    rw [List.flatMap_cons, performAll_append, performAll_bitEvents b hoe hload, ih rfl rfl]
    simp [Chain.sendBits, Function.comp_def, Nat.add_comm, Nat.add_left_comm]

/-- A frame of N pairs, from LOAD driven high: its bits enter the chain, and every device commits (R124, R216). -/
theorem performAll_frameEvents_devices {cfg : Config} {f : Frame} {o : Out} {c : Chain} (hf : f.length = cfg.n)
    (hoe : o.oe = true) (hload : o.load = true) :
    (performAll cfg (frameEvents f) (o, c)).2.devices =
      (shiftBits (frameBits f) c.devices).map (Device.commit cfg) := by
  have hlow : (o.perform ⟨.load, false⟩).load = false := rfl
  have hdriven : (o.perform ⟨.load, false⟩).oe = true := hoe
  have hsent := performAll_bitsEvents (cfg := cfg) (c := c.loadFall) (frameBits f) hdriven hlow
  obtain ⟨hload', hoe'⟩ := foldl_bitsEvents_load_oe (frameBits f) (o.perform ⟨.load, false⟩)
  rw [frameEvents, performAll_cons, performAll_append, performOn, Chain.observe_loadFall hoe hload, performAll_cons,
    performAll_nil, performOn, hsent, performAll_fst, Chain.observe_loadRise (hoe'.trans hdriven) (hload'.trans hlow)]
  simp [Chain.loadRise, Chain.sendBits, Chain.loadFall, frameBits_length, hf]

/-- A device whose shift register holds the bits of a pair commits that pair (R214, R216). -/
theorem Device.commit_regs_of_pairBits {cfg : Config} {d : Device} {p : Pair} (h : d.sr = (pairBits p).map some) :
    (d.commit cfg).regs = d.regs.write cfg p.addr p.data := by
  simp [Device.commit, h, srPair_pairBits]

/-- Devices that hold the registers of `ds` and, in their shift registers, the pairs `ps` commit each its own pair (R216). -/
theorem map_commit_map_regs {cfg : Config} {ds ds' : List Device} {ps : List Pair}
    (hsr : ds'.map (·.sr) = ps.map fun p => (pairBits p).map some) (hregs : ds'.map (·.regs) = ds.map (·.regs)) :
    (ds'.map (Device.commit cfg)).map (·.regs) = List.zipWith (fun p d => d.regs.write cfg p.addr p.data) ps ds := by
  induction ds' generalizing ds ps with
  | nil =>
    obtain rfl : ps = [] := by simpa using hsr.symm
    rfl
  | cons d' ds' ih =>
    obtain ⟨p, ps, rfl, hp, hps⟩ := List.map_eq_cons_iff.1 hsr.symm
    obtain ⟨d, ds, rfl, hd, hds⟩ := List.map_eq_cons_iff.1 hregs.symm
    rw [List.map_cons, List.map_cons, List.zipWith_cons_cons, ih hps.symm hds.symm,
      Device.commit_regs_of_pairBits hp.symm, hd]

/-- One frame of N pairs, from any chain with LOAD driven high, writes to every device the pair of its slot: the pairs reach the
devices in the reverse order of sending (R150, R221). -/
theorem performAll_frameEvents_regs {cfg : Config} {f : Frame} {o : Out} {c : Chain} (hc : c.Shaped cfg.n)
    (hf : f.length = cfg.n) (hoe : o.oe = true) (hload : o.load = true) :
    (performAll cfg (frameEvents f) (o, c)).2.devices.map (·.regs) =
      List.zipWith (fun p d => d.regs.write cfg p.addr p.data) f.reverse c.devices := by
  obtain ⟨hn, hsr⟩ := hc
  rw [performAll_frameEvents_devices hf hoe hload]
  exact map_commit_map_regs (shiftBits_frameBits_map_sr hsr (hf.trans hn.symm)) (shiftBits_map_regs _ _)

end Sys2Proof.Machine
end

section
/-! SUPPORT. The frames of the two targets, the work of DROWD and WREG, what an idle machine does with a command of one frame, from
its acceptance to the registers of the devices; and the statements about addressing they settle (41_addressing.md R150 to R160). -/

namespace Sys2Proof.Machine

/-! ### Slots and frames (R150, R152, R153) -/

theorem slotOf_lt {n k : Nat} (h : k < n) : slotOf n k < n := by
  unfold slotOf
  omega

/-- Slot `SlotOf(k)` ends in device k (R150). -/
theorem devOf_slotOf {n k : Nat} (h : k < n) : devOf n (slotOf n k) = k := by
  unfold devOf slotOf
  omega

/-- A targeted frame has the pair in the slot of its device (R153). -/
theorem targetFrame_getElem?_slotOf {n k : Nat} (a d : Byte) (h : k < n) :
    (targetFrame n a d k)[slotOf n k]? = some ⟨a, d⟩ := by
  rw [List.getElem?_eq_getElem (by simpa using slotOf_lt h), targetFrame_getElem, if_pos rfl]

/-- A targeted frame has the no-op pair in every other slot (R153). -/
theorem targetFrame_getElem?_of_ne {n j k : Nat} (a d : Byte) (hj : j < n) (h : j ≠ slotOf n k) :
    (targetFrame n a d k)[j]? = some nopPair := by
  rw [List.getElem?_eq_getElem (by simpa using hj), targetFrame_getElem, if_neg h]

theorem broadcastFrame_getElem? {n j : Nat} (a d : Byte) (h : j < n) : (broadcastFrame n a d)[j]? = some ⟨a, d⟩ := by
  rw [List.getElem?_eq_getElem (by simpa using h), broadcastFrame_getElem]

/-- In a chain of one device the two frames are the same (R155). -/
theorem targetFrame_one (a d : Byte) : targetFrame 1 a d 0 = broadcastFrame 1 a d := rfl

/-- A targeted frame in the order of the devices: the pair at device k (R150). -/
theorem targetFrame_reverse {n k : Nat} (a d : Byte) (h : k < n) :
    (targetFrame n a d k).reverse = (List.range n).map fun j => if j = k then ⟨a, d⟩ else nopPair := by
  refine List.ext_getElem (by simp) fun j hj _ => ?_
  have hjn : j < n := by simpa using hj
  have hslot : n - 1 - j = slotOf n k ↔ j = k := by
    unfold slotOf
    omega
  simp only [List.getElem_reverse, targetFrame_getElem, targetFrame_length, List.getElem_map, List.getElem_range, hslot]

/-! ### Register writes (R214) -/

/-- The no-op pair writes nothing (R214). -/
theorem DevRegs.write_nopPair (cfg : Config) (r : DevRegs) : r.write cfg nopPair.addr nopPair.data = r := if_pos rfl

theorem rowAddr_toNat {row : Nat} (h : row < 8) : (rowAddr row).toNat = row + 1 := by
  rw [rowAddr, BitVec.toNat_ofNat, Nat.mod_eq_of_lt (by omega)]

/-- The row addresses write the row registers (R213, R214). -/
theorem DevRegs.write_rowAddr (cfg : Config) {row : Nat} (h : row < 8) (d : Byte) (r : DevRegs) :
    r.write cfg (rowAddr row) d = { r with rows := r.rows.set row (some d) h } := by
  have hnat := rowAddr_toNat h
  have hnop : rowAddr row ≠ nopAddr := fun he => by simp [he, nopAddr] at hnat
  simp [DevRegs.write, hnop, hnat, h]

/-! ### What a frame writes, by its target (R152, R153, R221) -/

section Frames

variable {cfg : Config} {o : Out} {c : Chain}

/-- A broadcast frame writes its pair to every device (R152). -/
theorem performAll_broadcastFrame_regs (hc : c.Shaped cfg.n) (hoe : o.oe = true) (hload : o.load = true) (a d : Byte) :
    (performAll cfg (frameEvents (broadcastFrame cfg.n a d)) (o, c)).2.devices.map (·.regs) =
      c.devices.map fun dev => dev.regs.write cfg a d := by
  rw [performAll_frameEvents_regs hc (broadcastFrame_length _ _ _) hoe hload]
  obtain ⟨hn, -⟩ := hc
  refine List.ext_getElem (by simp [hn]) fun k _ _ => ?_
  simp [broadcastFrame]

/-- A targeted frame writes its pair to its device and nothing to the others (R153). -/
theorem performAll_targetFrame_regs (hc : c.Shaped cfg.n) (hoe : o.oe = true) (hload : o.load = true) (a d : Byte) {k : Nat}
    (hk : k < cfg.n) :
    (performAll cfg (frameEvents (targetFrame cfg.n a d k)) (o, c)).2.devices.map (·.regs) =
      c.devices.mapIdx fun j dev => if j = k then dev.regs.write cfg a d else dev.regs := by
  rw [performAll_frameEvents_regs hc (targetFrame_length _ _ _ _) hoe hload, targetFrame_reverse a d hk]
  obtain ⟨hn, -⟩ := hc
  refine List.ext_getElem (by simp [hn]) fun j _ _ => ?_
  simp only [List.getElem_zipWith, List.getElem_map, List.getElem_range, List.getElem_mapIdx]
  split
  · rfl
  · exact DevRegs.write_nopPair cfg _

end Frames

/-! ### The work of DROWD and WREG (R151, R154, R156, R160) -/

/-- A row 0..7 is sent to its row address (R156). -/
theorem workDrowd_of_le {row : Nat} (h : row ≤ 7) (cfg : Config) (pattern : Byte) (target : Target) :
    workDrowd cfg row pattern target = Work.toTarget cfg.n (rowAddr row) pattern target :=
  if_pos (decide_eq_true (Nat.lt_succ_of_le h))

/-- A row above 7 is dropped (R156). -/
theorem workDrowd_of_gt {row : Nat} (h : 7 < row) (cfg : Config) (pattern : Byte) (target : Target) :
    workDrowd cfg row pattern target = .dropped :=
  if_neg fun hin => Nat.not_lt.2 h (of_decide_eq_true hin)

/-- The targeted form clamps the device index (R151). -/
theorem Work.toTarget_dev (n : Nat) (a d : Byte) (dev : Nat) :
    Work.toTarget n a d (.dev dev) = ⟨resolveFlags n (.dev dev), false, [targetFrame n a d (min dev (n - 1))]⟩ := by
  rw [Work.toTarget, resolve_dev]
  rfl

/-- The clamp sets CLAMP exactly for an index of N or more (R151). -/
theorem Flags.setAll_resolveFlags_dev {n : Nat} (hn : 1 ≤ n) (f : Flags) (dev : Nat) :
    f.setAll (resolveFlags n (.dev dev)) = if dev < n then f else { f with clamp := true } := by
  split
  case isTrue h => rw [resolveFlags_inRange h, Flags.setAll_nil]
  case isFalse h => rw [resolveFlags_clamped hn (Nat.le_of_not_lt h)]; rfl

/-! ### Acceptance by an idle, configured machine (R97) -/

/-- A command of one frame is queued, with its flags. -/
theorem exec_of_frame {s : State} {i : Instr} {fs : List Flag} {f : Frame} (hq : s.q = []) (hoe : s.out.oe = true)
    (hw : workOf s.cfg i = ⟨fs, false, [f]⟩) :
    exec i s = .next { s with t := 0, q := frameEvents f, flags := s.flags.setAll fs } := by
  have hevents : (workOf s.cfg i).events = frameEvents f := by simp [hw, Work.events]
  have hne : frameEvents f ≠ [] := by simp [frameEvents]
  rw [exec_eq]
  rcases s.acceptWork_cases (isInit i) (workOf s.cfg i) with ⟨h, -⟩ | ⟨-, -, h, -⟩ | ⟨-, -, h, -⟩ | ⟨-, -, -, h⟩
  · exact absurd hq h
  · simp [hoe] at h
  · exact absurd (hevents ▸ h) hne
  · rw [h, hevents, hw]

/-- A broadcast pair is queued in every slot, with no flag (R152). -/
theorem exec_broadcast {s : State} {i : Instr} {a d : Byte} (hq : s.q = []) (hoe : s.out.oe = true)
    (hw : workOf s.cfg i = Work.toTarget s.cfg.n a d .all) :
    exec i s = .next { s with t := 0, q := frameEvents (broadcastFrame s.cfg.n a d) } :=
  exec_of_frame hq hoe hw

/-- A targeted pair is queued in the slot of its device, clamped to N - 1, with CLAMP for an index of N or more (R151, R153). -/
theorem exec_target {s : State} {i : Instr} {a d : Byte} {dev : Nat} (hq : s.q = []) (hoe : s.out.oe = true)
    (hn : 1 ≤ s.cfg.n) (hw : workOf s.cfg i = Work.toTarget s.cfg.n a d (.dev dev)) :
    exec i s = .next { s with
      t := 0
      q := frameEvents (targetFrame s.cfg.n a d (min dev (s.cfg.n - 1)))
      flags := if dev < s.cfg.n then s.flags else { s.flags with clamp := true } } := by
  rw [exec_of_frame hq hoe (hw.trans (Work.toTarget_dev _ _ _ _)), Flags.setAll_resolveFlags_dev hn]

/-- A targeted pair sent to a device of N or more is queued as for N - 1, with CLAMP (R151). -/
theorem exec_clamped {s : State} {i i' : Instr} {a d : Byte} {dev : Nat} (hq : s.q = []) (hoe : s.out.oe = true)
    (hn : 1 ≤ s.cfg.n) (hdev : s.cfg.n ≤ dev) (hw : workOf s.cfg i = Work.toTarget s.cfg.n a d (.dev (s.cfg.n - 1)))
    (hw' : workOf s.cfg i' = Work.toTarget s.cfg.n a d (.dev dev)) :
    ∃ t, exec i s = .next t ∧ t.flags = s.flags ∧
      exec i' s = .next { t with flags := { t.flags with clamp := true } } := by
  have hlast : resolveFlags s.cfg.n (.dev (s.cfg.n - 1)) = [] := resolveFlags_inRange (by omega)
  have hclamp : resolveFlags s.cfg.n (.dev dev) = [.clamp] := resolveFlags_clamped hn hdev
  have hmin : min dev (s.cfg.n - 1) = s.cfg.n - 1 := by omega
  rw [Work.toTarget_dev, hlast, min_self] at hw
  rw [Work.toTarget_dev, hclamp, hmin] at hw'
  exact ⟨_, exec_of_frame hq hoe hw, rfl, exec_of_frame hq hoe hw'⟩

/-- A command that is dropped sets DROP and does nothing else (R156). -/
theorem exec_of_dropped {s : State} {i : Instr} (hq : s.q = []) (hoe : s.out.oe = true) (hw : workOf s.cfg i = .dropped) :
    exec i s = .next { s with flags := { s.flags with drop := true } } := by
  rw [exec_eq, hw]
  rcases s.acceptWork_cases (isInit i) .dropped with ⟨h, -⟩ | ⟨-, -, h, -⟩ | ⟨-, -, -, h⟩ | ⟨-, -, h, -⟩
  · exact absurd hq h
  · simp [hoe] at h
  · rw [h]
    rfl
  · exact absurd rfl h

/-! ### The command written to a machine that is ready for it -/

namespace State.ReadyFor

variable {s : State} {i : Instr}

theorem one_le_n (h : s.ReadyFor i) : 1 ≤ s.cfg.n := by
  obtain ⟨hn, -⟩ := h.inv.cfg
  exact hn

/-- A command of one frame is performed whole, and the frame writes to the devices what it writes to the chain it finds (R69, R128). -/
theorem run_frame (h : s.ReadyFor i) (hwf : i.wellFormed = true) {fs : List Flag} {f : Frame}
    (hw : workOf s.cfg i = ⟨fs, false, [f]⟩) :
    ∃ t, runFor ((48 * s.cfg.n + 2) * s.cfg.eventCycles + 1) s = .next t ∧ t.busy = false ∧
      t.flags = s.flags.setAll fs ∧ t.chain = (performAll s.cfg (frameEvents f) (s.out, s.chain)).2 := by
  have hlen : f.length = s.cfg.n := workOf_frames_length (i := i) (by simp [hw])
  obtain ⟨-, t, hrun, hidle, -, hlines, hflags, -⟩ :=
    acceptedCommandIsPerformedWhole i s _ h.inv hwf h.idle (.inl h.configured) h.rst h.host
      (exec_of_frame h.idle h.configured hw)
  rw [frameEvents_length, hlen] at hrun
  exact ⟨t, hrun, hidle, hflags, congrArg Prod.snd hlines⟩

/-- A broadcast pair reaches every device (R152). -/
theorem run_broadcast (h : s.ReadyFor i) (hwf : i.wellFormed = true) {a d : Byte}
    (hw : workOf s.cfg i = Work.toTarget s.cfg.n a d .all) :
    ∃ t, runFor ((48 * s.cfg.n + 2) * s.cfg.eventCycles + 1) s = .next t ∧ t.busy = false ∧ t.flags = s.flags ∧
      t.chain.devices.map (·.regs) = s.chain.devices.map fun dev => dev.regs.write s.cfg a d := by
  obtain ⟨t, hrun, hidle, hflags, hchain⟩ := h.run_frame hwf hw
  refine ⟨t, hrun, hidle, hflags, ?_⟩
  rw [hchain]
  exact performAll_broadcastFrame_regs h.inv.chain h.configured (h.inv.load_of_idle h.idle) a d

/-- A targeted pair reaches the one device, clamped to N - 1, and CLAMP says so (R151, R153). -/
theorem run_target (h : s.ReadyFor i) (hwf : i.wellFormed = true) {a d : Byte} {dev : Nat}
    (hw : workOf s.cfg i = Work.toTarget s.cfg.n a d (.dev dev)) :
    ∃ t, runFor ((48 * s.cfg.n + 2) * s.cfg.eventCycles + 1) s = .next t ∧ t.busy = false ∧
      t.flags = (if dev < s.cfg.n then s.flags else { s.flags with clamp := true }) ∧
      t.chain.devices.map (·.regs) = s.chain.devices.mapIdx fun k dv =>
        if k = min dev (s.cfg.n - 1) then dv.regs.write s.cfg a d else dv.regs := by
  have hn := h.one_le_n
  obtain ⟨t, hrun, hidle, hflags, hchain⟩ := h.run_frame hwf (hw.trans (Work.toTarget_dev _ _ _ _))
  refine ⟨t, hrun, hidle, hflags.trans (Flags.setAll_resolveFlags_dev hn _ _), ?_⟩
  rw [hchain]
  exact performAll_targetFrame_regs h.inv.chain h.configured (h.inv.load_of_idle h.idle) a d (by omega)

/-- A dropped command sets DROP in its cycle and is done (R156). -/
theorem step_dropped (h : s.ReadyFor i) (hwf : i.wellFormed = true) (hw : workOf s.cfg i = .dropped) :
    ∃ t, step s = .next t ∧ t.busy = false ∧ t.flags = { s.flags with drop := true } ∧ t.trace = s.trace ∧
      t.out = s.out ∧ t.chain = s.chain := by
  have hreset : s.rstAsserted = false := by simp [State.rstAsserted, h.rst]
  have haccept : s.accept (encode i) = .next { s with flags := { s.flags with drop := true } } := by
    simp only [State.accept, decode_encode hwf, exec_of_dropped h.idle h.configured hw]
  have hstep := step_of_cmdWrite hreset (State.hostAccess_cmd h.host) haccept
  obtain ⟨hout, htrace, hchain, -⟩ := idleCyclePerformsNoEvent s _ hstep hreset h.idle
  obtain ⟨-, hqueue, -⟩ :=
    s.passCycle_idle { s with flags := { s.flags with drop := true } } (State.busy_eq_false.2 h.idle)
  exact ⟨_, hstep, State.busy_eq_false.2 (hqueue.trans h.idle), by simp, htrace, hout, hchain h.configured⟩

end State.ReadyFor

/-! ### The statements -/

/-- Settles O33, slot by slot (`targetFrame_getElem?_slotOf`, `targetFrame_getElem?_of_ne`). -/
theorem framesCarryThePairInItsSlot : Obligations.FramesCarryThePairInItsSlot := by
  refine fun n a d k hk => ⟨broadcastFrame_length n a d, targetFrame_length n a d k, fun j => broadcastFrame_getElem? a d,
    targetFrame_getElem?_slotOf a d hk, fun j hj hne => targetFrame_getElem?_of_ne a d hj hne, slotOf_lt hk, devOf_slotOf hk,
    fun hn => ?one⟩
  case one =>
    subst hn
    obtain rfl : k = 0 := Nat.lt_one_iff.1 hk
    exact targetFrame_one a d

/-- Settles O34: the work of either command differs from that for N - 1 in CLAMP alone (`exec_clamped`). -/
theorem outOfRangeDeviceIsTheLastDevice : Obligations.OutOfRangeDeviceIsTheLastDevice :=
  fun s _ hq hoe hn hdev =>
    ⟨fun _ _ hrow => exec_clamped hq hoe hn hdev (workDrowd_of_le hrow s.cfg _ _) (workDrowd_of_le hrow s.cfg _ _),
      fun _ _ => exec_clamped hq hoe hn hdev rfl rfl⟩

/-- Settles O24: a row 0..7 is sent to its row address (`exec_target`), a row above 7 is dropped (`exec_of_dropped`). -/
theorem drowdQueuesTheTargetFrame : Obligations.DrowdQueuesTheTargetFrame :=
  fun s _ _ _ hq hoe hn =>
    ⟨fun hrow => exec_target hq hoe hn (workDrowd_of_le hrow s.cfg _ _),
      fun hrow => exec_of_dropped hq hoe (workDrowd_of_gt hrow s.cfg _ _)⟩

/-- Settles O25: a row 0..7 is sent to its row address in every slot (`exec_broadcast`), a row above 7 is dropped. -/
theorem drowdAllQueuesTheBroadcastFrame : Obligations.DrowdAllQueuesTheBroadcastFrame :=
  fun s _ _ hq hoe =>
    ⟨fun hrow => exec_broadcast hq hoe (workDrowd_of_le hrow s.cfg _ .all),
      fun hrow => exec_of_dropped hq hoe (workDrowd_of_gt hrow s.cfg _ _)⟩

/-- Settles O26: WREG sends its address and data to its target unchanged (`exec_target`). -/
theorem wregQueuesTheTargetFrame : Obligations.WregQueuesTheTargetFrame :=
  fun _ _ _ _ hq hoe hn => exec_target hq hoe hn rfl

/-- Settles O27: WREG.ALL sends its address and data in every slot (`exec_broadcast`). -/
theorem wregAllQueuesTheBroadcastFrame : Obligations.WregAllQueuesTheBroadcastFrame :=
  fun _ _ _ hq hoe => exec_broadcast hq hoe rfl

/-- Settles O52: the targeted frame (`State.ReadyFor.run_target`) with the write of a row (`DevRegs.write_rowAddr`). -/
theorem drowdSetsOneRowOfOneDevice : Obligations.DrowdSetsOneRowOfOneDevice := by
  intro s row hrow pattern dev hdev h
  have hwf : (Instr.drowd row pattern dev).wellFormed = true := by
    simp [Instr.wellFormed, fitsField_iff, hdev, hrow.trans]
  have hrun := h.run_target hwf (workDrowd_of_le (Nat.le_of_lt_succ hrow) s.cfg pattern (.dev dev))
  simpa only [DevRegs.write_rowAddr s.cfg hrow] using hrun

/-- Settles O53: the broadcast frame (`State.ReadyFor.run_broadcast`) with the write of a row (`DevRegs.write_rowAddr`). -/
theorem drowdAllSetsOneRowOfEveryDevice : Obligations.DrowdAllSetsOneRowOfEveryDevice := by
  intro s row hrow pattern h
  have hwf : (Instr.drowdAll row pattern).wellFormed = true := fitsField_iff.2 (by omega)
  have hrun := h.run_broadcast hwf (workDrowd_of_le (Nat.le_of_lt_succ hrow) s.cfg pattern .all)
  simpa only [DevRegs.write_rowAddr s.cfg hrow] using hrun

/-- Settles O54: in either form the work is the dropped one (`State.ReadyFor.step_dropped`). -/
theorem droppedRowEmitsNothing : Obligations.DroppedRowEmitsNothing := by
  rintro s row pattern dev hrow hfits hdev (h | h)
  · have hwf : (Instr.drowd row pattern dev).wellFormed = true := by simp [Instr.wellFormed, fitsField_iff, hfits, hdev]
    exact h.step_dropped hwf (workDrowd_of_gt hrow s.cfg pattern (.dev dev))
  · exact h.step_dropped (fitsField_iff.2 hfits) (workDrowd_of_gt hrow s.cfg pattern .all)

/-- Settles O55: WREG's work is the targeted pair as it stands (`State.ReadyFor.run_target`). -/
theorem wregWritesOneDevice : Obligations.WregWritesOneDevice :=
  fun _ _ _ _ hdev h => h.run_target (fitsField_iff.2 hdev) rfl

/-- Settles O56: WREG.ALL's work is the broadcast pair as it stands (`State.ReadyFor.run_broadcast`). -/
theorem wregAllWritesEveryDevice : Obligations.WregAllWritesEveryDevice :=
  fun _ _ _ h => h.run_broadcast rfl rfl

end Sys2Proof.Machine
end

section
/-! SUPPORT. The named registers and the row registers as targets of writes, the frame programs of INIT and CLEAR as sequences of
broadcast pairs, and what such a sequence writes to the devices; and the statements about INIT, SETB and CLEAR they settle
(42_driver_ops.md R180 to R188). -/

namespace Sys2Proof.Machine

/-! ### Register writes (R213, R214) -/

/-- An address above the rows is looked up among the named registers (R213, R217). -/
theorem DevRegs.write_of_gt {a : Byte} (h : 8 < a.toNat) (cfg : Config) (d : Byte) (r : DevRegs) :
    r.write cfg a d =
      if a = cfg.regDecode then { r with decode := some d }
      else if a = cfg.regIntensity then { r with intensity := some d }
      else if a = cfg.regScanLimit then { r with scanLimit := some d }
      else if a = cfg.regShutdown then { r with shutdown := some d }
      else if a = cfg.regTest then { r with test := some d }
      else DevRegs.unknown := by
  have hnop : a ≠ nopAddr := fun he => by simp [he, nopAddr] at h
  have hrow : ¬(1 ≤ a.toNat ∧ a.toNat ≤ 8) := by omega
  rw [DevRegs.write, if_neg hnop, dif_neg hrow]

/-- With legal parameters the five named addresses are apart, and each writes its own register (R4, R213, R214). -/
theorem DevRegs.write_named {cfg : Config} (h : cfg.Valid) (d : Byte) (r : DevRegs) :
    r.write cfg cfg.regDecode d = { r with decode := some d } ∧
    r.write cfg cfg.regIntensity d = { r with intensity := some d } ∧
    r.write cfg cfg.regScanLimit d = { r with scanLimit := some d } ∧
    r.write cfg cfg.regShutdown d = { r with shutdown := some d } ∧
    r.write cfg cfg.regTest d = { r with test := some d } := by
  obtain ⟨-, -, -, -, hapart, habove⟩ := h
  simp only [Config.namedRegs, List.nodup_cons, List.mem_cons, List.not_mem_nil, or_false, not_or] at hapart
  simp only [Config.namedRegs, List.forall_mem_cons] at habove
  obtain ⟨hdecode, hintensity, hscanLimit, hshutdown, htest, -⟩ := habove
  simp [DevRegs.write_of_gt, *, eq_comm]

/-- These pairs written one after another. -/
def DevRegs.writeAll (cfg : Config) (ps : List Pair) (r : DevRegs) : DevRegs :=
  ps.foldl (fun r p => r.write cfg p.addr p.data) r

@[simp] theorem DevRegs.writeAll_nil (cfg : Config) (r : DevRegs) : r.writeAll cfg [] = r := rfl

@[simp] theorem DevRegs.writeAll_cons (cfg : Config) (p : Pair) (ps : List Pair) (r : DevRegs) :
    r.writeAll cfg (p :: ps) = (r.write cfg p.addr p.data).writeAll cfg ps := rfl

@[simp] theorem DevRegs.writeAll_append (cfg : Config) (ps qs : List Pair) (r : DevRegs) :
    r.writeAll cfg (ps ++ qs) = (r.writeAll cfg ps).writeAll cfg qs := by
  simp [DevRegs.writeAll]

/-- The first `k` rows in ascending order, each with the data byte `d` (R187). -/
def rowPairs (k : Nat) (d : Byte) : List Pair := (List.range k).map fun row => ⟨rowAddr row, d⟩

theorem rowPairs_succ (k : Nat) (d : Byte) : rowPairs (k + 1) d = rowPairs k d ++ [⟨rowAddr k, d⟩] := by
  simp [rowPairs, List.range_succ]

/-- Writes to the first `k` rows set those and keep everything else. -/
theorem DevRegs.writeAll_rowPairs (cfg : Config) {k : Nat} (hk : k ≤ 8) (d : Byte) (r : DevRegs) :
    r.writeAll cfg (rowPairs k d) =
      { r with rows := Vector.ofFn fun i : Fin 8 => if i.val < k then some d else r.rows[i] } := by
  induction k with
  | zero => simp [rowPairs]
  | succ k ih =>
    have hrows : (Vector.ofFn fun i : Fin 8 => if i.val < k then some d else r.rows[i]).set k (some d) hk =
        Vector.ofFn fun i : Fin 8 => if i.val < k + 1 then some d else r.rows[i] := by
      refine Vector.ext fun i hi => ?_
      rw [Vector.getElem_set]
      grind
    rw [rowPairs_succ, DevRegs.writeAll_append, ih (by omega), DevRegs.writeAll_cons, DevRegs.writeAll_nil,
      DevRegs.write_rowAddr cfg hk, hrows]

/-- Writes to all eight rows leave nothing of what they held (R188). -/
theorem DevRegs.writeAll_allRows (cfg : Config) (d : Byte) (r : DevRegs) :
    r.writeAll cfg (rowPairs 8 d) = { r with rows := Vector.replicate 8 (some d) } := by
  have hrows : (Vector.ofFn fun i : Fin 8 => if i.val < 8 then some d else r.rows[i]) = Vector.replicate 8 (some d) :=
    Vector.ext fun i _ => by simp
  rw [DevRegs.writeAll_rowPairs cfg (Nat.le_refl 8), hrows]

/-! ### Broadcast pairs in sequence (R125, R152) -/

/-- One broadcast frame for each pair. -/
def pairFrames (n : Nat) (ps : List Pair) : List Frame := ps.map fun p => broadcastFrame n p.addr p.data

@[simp] theorem pairFrames_cons (n : Nat) (p : Pair) (ps : List Pair) :
    pairFrames n (p :: ps) = broadcastFrame n p.addr p.data :: pairFrames n ps := rfl

/-- INIT's pairs in R182's order. -/
def initPairs (cfg : Config) : List Pair :=
  [⟨cfg.regScanLimit, 0x07⟩, ⟨cfg.regDecode, 0x00⟩, ⟨cfg.regShutdown, 0x01⟩, ⟨cfg.regTest, 0x00⟩] ++ rowPairs 8 0x00 ++
    [⟨cfg.regIntensity, 0x0F⟩]

theorem workInit_eq (cfg : Config) : workInit cfg = ⟨[], true, pairFrames cfg.n (initPairs cfg)⟩ := rfl

/-- CLEAR broadcasts 0 to every row (R187). -/
theorem workClear_eq (cfg : Config) : workClear cfg = ⟨[], false, pairFrames cfg.n (rowPairs 8 0x00)⟩ := rfl

/-- INIT's pairs leave nothing of what the registers held (R184). -/
theorem DevRegs.writeAll_initPairs {cfg : Config} (h : cfg.Valid) (r : DevRegs) :
    r.writeAll cfg (initPairs cfg) =
      ⟨Vector.replicate 8 (some 0x00), some 0x00, some 0x0F, some 0x07, some 0x01, some 0x00⟩ := by
  simp [initPairs, DevRegs.write_named h, DevRegs.writeAll_allRows]

/-- A frame leaves the output enable as it was (R127). -/
theorem foldl_frameEvents_oe (f : Frame) (o : Out) : ((frameEvents f).foldl Out.perform o).oe = o.oe := by
  obtain ⟨-, hoe⟩ := foldl_bitsEvents_load_oe (frameBits f) (o.perform ⟨.load, false⟩)
  rw [frameEvents, List.foldl_cons, List.foldl_append]
  exact hoe

theorem foldl_framesEvents_oe (fs : List Frame) (o : Out) : ((framesEvents fs).foldl Out.perform o).oe = o.oe := by
  induction fs generalizing o with
  | nil => rfl
  | cons f fs ih => rw [framesEvents_cons, List.foldl_append, ih, foldl_frameEvents_oe]

/-- Broadcast pairs, from any chain with LOAD driven high, are written to every device one after another (R152, R221). -/
theorem performAll_pairFrames_regs {cfg : Config} {oc : Out × Chain} (hc : oc.2.Shaped cfg.n) (hoe : oc.1.oe = true)
    (hload : oc.1.load = true) (ps : List Pair) :
    (performAll cfg (framesEvents (pairFrames cfg.n ps)) oc).2.devices.map (·.regs) =
      oc.2.devices.map fun dev => dev.regs.writeAll cfg ps := by
  induction ps generalizing oc with
  | nil => rfl
  | cons p ps ih =>
    have hregs := performAll_broadcastFrame_regs hc hoe hload p.addr p.data
    rw [pairFrames_cons, framesEvents_cons, performAll_append]
    generalize hoc' : performAll cfg (frameEvents (broadcastFrame cfg.n p.addr p.data)) oc = oc' at hregs ⊢
    have hc' : oc'.2.Shaped cfg.n := hoc' ▸ performAll_shaped hc
    have hoe' : oc'.1.oe = true := by rw [← hoc', performAll_fst, foldl_frameEvents_oe, hoe]
    have hload' : oc'.1.load = true := by rw [← hoc', performAll_fst, foldl_frameEvents_load]
    calc (performAll cfg (framesEvents (pairFrames cfg.n ps)) oc').2.devices.map (·.regs)
        = (oc'.2.devices.map (·.regs)).map (DevRegs.writeAll cfg ps) := by
          rw [ih hc' hoe' hload', List.map_map]
          rfl
      _ = oc.2.devices.map fun dev => dev.regs.writeAll cfg (p :: ps) := by
          rw [hregs, List.map_map]
          rfl

/-! ### From a command to the registers of the devices (R97, R128, R181) -/

/-- The setup events leave the lines driven and the chain of an idle machine as it is: it is unknown if they were undriven before,
and otherwise no level that acts on it changes (R181, R210, R219). -/
theorem State.Inv.performAll_setupEvents {s : State} (hs : s.Inv) (hq : s.q = []) :
    performAll s.cfg setupEvents (s.out, s.chain) = (⟨false, false, true, true⟩, s.chain) := by
  have henable : s.chain.observe s.cfg s.out (s.out.perform ⟨.oe, true⟩) = s.chain := by
    cases ho : s.out.oe with
    | true =>
      have hsame : s.out.perform ⟨.oe, true⟩ = s.out := by rw [Out.perform, ← ho]
      rw [hsame, Chain.observe_same ho]
    | false => rw [Chain.observe_undriven (.inl ho), hs.undriven ho]
  have hload : (s.out.perform ⟨.oe, true⟩).perform ⟨.load, true⟩ = s.out.perform ⟨.oe, true⟩ := by
    simp [Out.perform, hs.load_of_idle hq]
  have hdriven : (s.out.perform ⟨.oe, true⟩).oe = true := rfl
  have hdriven' : ((s.out.perform ⟨.oe, true⟩).perform ⟨.clk, false⟩).oe = true := rfl
  simp only [setupEvents, performAll_cons, performAll_nil, performOn, henable, hload, Chain.observe_same hdriven,
    Chain.observe_clkLow hdriven, Chain.observe_data hdriven']
  simp [Out.perform, hs.load_of_idle hq]

section Pairs

variable {s : State} {i : Instr} {ps : List Pair}

/-- Broadcast pairs are queued by an idle machine, if it is configured or the command is INIT; no flag is set. -/
theorem exec_pairs (hq : s.q = []) (hc : s.out.oe = true ∨ isInit i = true)
    (hw : workOf s.cfg i = ⟨[], isInit i, pairFrames s.cfg.n ps⟩) (hps : ps ≠ []) :
    exec i s = .next { s with t := 0, q := (workOf s.cfg i).events } := by
  have hflags : (workOf s.cfg i).flags = [] := by rw [hw]
  have hne : (workOf s.cfg i).events.isEmpty = false := by simp [Work.events_isEmpty, hw, pairFrames, hps]
  rw [exec_eq]
  rcases s.acceptWork_cases (isInit i) (workOf s.cfg i) with ⟨h, -⟩ | ⟨-, hi, ho, -⟩ | ⟨-, -, h, -⟩ | ⟨-, -, -, h⟩
  · exact absurd hq h
  · simp [hi, ho] at hc
  · simp [h] at hne
  · rw [h, hflags, Flags.setAll_nil]

/-- Broadcast pairs, with the setup events before them or on lines driven already, reach every device (R69, R128, R152). -/
theorem State.Inv.run_pairs (hs : s.Inv) (hwf : i.wellFormed = true) (hq : s.q = []) (hc : s.out.oe = true ∨ i = .init)
    (hrst : s.rst = []) (hhost : s.host = [.cmd (encode i)])
    (hw : workOf s.cfg i = ⟨[], isInit i, pairFrames s.cfg.n ps⟩) (hps : ps ≠ []) :
    ∃ t, runFor ((workOf s.cfg i).events.length * s.cfg.eventCycles + 1) s = .next t ∧ t.busy = false ∧ t.out.oe = true ∧
      t.flags = s.flags ∧ t.chain.Shaped s.cfg.n ∧
      t.chain.devices.map (·.regs) = s.chain.devices.map fun dev => dev.regs.writeAll s.cfg ps := by
  have hc' : s.out.oe = true ∨ isInit i = true := hc.imp_right (congrArg isInit)
  obtain ⟨-, t, hrun, hidle, -, hlines, hflags, -⟩ :=
    acceptedCommandIsPerformedWhole i s _ hs hwf hq hc hrst hhost (exec_pairs hq hc' hw hps)
  obtain ⟨o, hsetup, hoe, hload⟩ : ∃ o, performAll s.cfg (if isInit i then setupEvents else []) (s.out, s.chain) =
      (o, s.chain) ∧ o.oe = true ∧ o.load = true := by
    split
    case isTrue => exact ⟨_, hs.performAll_setupEvents hq, rfl, rfl⟩
    case isFalse hi => exact ⟨_, rfl, hc'.resolve_right hi, hs.load_of_idle hq⟩
  have hperformed : (t.out, t.chain) = performAll s.cfg (framesEvents (pairFrames s.cfg.n ps)) (o, s.chain) := by
    rw [hlines, hw, Work.events, performAll_append, hsetup]
  have hout : t.out = (framesEvents (pairFrames s.cfg.n ps)).foldl Out.perform o :=
    (congrArg Prod.fst hperformed).trans (performAll_fst _ _ _)
  have hchain : t.chain = (performAll s.cfg (framesEvents (pairFrames s.cfg.n ps)) (o, s.chain)).2 :=
    congrArg Prod.snd hperformed
  refine ⟨t, hrun, hidle, ?driven, hflags, ?shaped, ?regs⟩
  case driven => rw [hout, foldl_framesEvents_oe, hoe]
  case shaped =>
    rw [hchain]
    exact performAll_shaped hs.chain
  case regs =>
    rw [hchain]
    exact performAll_pairFrames_regs hs.chain hoe hload ps

end Pairs

/-! ### The statements -/

/-- Settles O21: INIT's work is its pairs (`exec_pairs`), which the statement writes out. -/
theorem initQueuesItsEvents : Obligations.InitQueuesItsEvents :=
  fun s hq => exec_pairs hq (.inr rfl) (workInit_eq s.cfg) (List.cons_ne_nil _ _)

/-- Settles O22: SETB's work is one broadcast pair (`exec_broadcast`). -/
theorem setbQueuesTheMaskedLevel : Obligations.SetbQueuesTheMaskedLevel := fun _ _ hq hoe => exec_broadcast hq hoe rfl

/-- Settles O23: CLEAR's work is its pairs (`exec_pairs`), which the statement writes out. -/
theorem clearQueuesEightFrames : Obligations.ClearQueuesEightFrames :=
  fun s hq hoe => exec_pairs hq (.inl hoe) (workClear_eq s.cfg) (List.cons_ne_nil _ _)

/-- Settles O49: INIT's pairs reach every device (`State.Inv.run_pairs`) and leave nothing of what its registers held
(`DevRegs.writeAll_initPairs`). -/
theorem initMakesEveryDeviceKnown : Obligations.InitMakesEveryDeviceKnown := by
  intro s hs hq hrst hhost
  have hlen : (workOf s.cfg .init).events.length = 624 * s.cfg.n + 30 :=
    eventCountsPerCommand .init s _ hq (.inr rfl) (initQueuesItsEvents s hq)
  obtain ⟨t, hrun, hidle, hoe, hflags, ⟨hn, -⟩, hregs⟩ :=
    hs.run_pairs (i := .init) rfl hq (.inr rfl) hrst hhost (workInit_eq s.cfg) (List.cons_ne_nil _ _)
  rw [hlen] at hrun
  refine ⟨t, hrun, hidle, hoe, hflags, hn, fun d hd => ?_⟩
  have hd' : d.regs ∈ t.chain.devices.map (·.regs) := List.mem_map_of_mem hd
  rw [hregs] at hd'
  obtain ⟨dev, -, hdev⟩ := List.mem_map.1 hd'
  rw [← hdev, DevRegs.writeAll_initPairs hs.cfg]

/-- Settles O50: SETB's broadcast pair (`State.ReadyFor.run_broadcast`) writes the intensity register (`DevRegs.write_named`). -/
theorem setbSetsEveryIntensity : Obligations.SetbSetsEveryIntensity := by
  intro s level h
  have hrun := h.run_broadcast rfl (a := s.cfg.regIntensity) (d := level &&& 0x0F) rfl
  simpa only [DevRegs.write_named h.inv.cfg] using hrun

/-- Settles O51: CLEAR's pairs reach every device (`State.Inv.run_pairs`) and write all its rows (`DevRegs.writeAll_allRows`). -/
theorem clearZeroesEveryRow : Obligations.ClearZeroesEveryRow := by
  intro s h
  have hlen : (workOf s.cfg .clear).events.length = 384 * s.cfg.n + 16 :=
    eventCountsPerCommand .clear s _ h.idle (.inl h.configured) (clearQueuesEightFrames s h.idle h.configured)
  obtain ⟨t, hrun, hidle, -, hflags, -, hregs⟩ :=
    h.inv.run_pairs rfl h.idle (.inl h.configured) h.rst h.host (workClear_eq s.cfg) (List.cons_ne_nil _ _)
  rw [hlen] at hrun
  simp only [DevRegs.writeAll_allRows] at hregs
  exact ⟨t, hrun, hidle, hflags, hregs⟩

end Sys2Proof.Machine
end

section
/-! SUPPORT. The rules of the device chain that its statements need beside those of Laws/Chain.lean: a register write at every kind of
address, and one shift device by device; and the statements about the chain they settle (44_device_chain.md R210 to R221). -/

namespace Sys2Proof.Machine

/-! ### Register writes (R213, R214, R217) -/

/-- Address 0x00 is the no-op, whatever the data byte (R214). -/
theorem DevRegs.write_nopAddr (cfg : Config) (d : Byte) (r : DevRegs) : r.write cfg nopAddr d = r := if_pos rfl

/-- Row k has one address, k + 1 (R213). -/
theorem eq_rowAddr_of_toNat {a : Byte} {row : Nat} (hrow : row < 8) (h : a.toNat = row + 1) : a = rowAddr row :=
  BitVec.eq_of_toNat_eq (h.trans (rowAddr_toNat hrow).symm)

/-- An address that is neither the no-op's, a row's nor a named register's leaves no register known (R217). -/
theorem DevRegs.write_undefined {cfg : Config} {a : Byte} (h : 8 < a.toNat) (hnamed : a ∉ cfg.namedRegs) (d : Byte)
    (r : DevRegs) : r.write cfg a d = DevRegs.unknown := by
  simp only [Config.namedRegs, List.mem_cons, List.not_mem_nil, or_false, not_or] at hnamed
  simp [DevRegs.write_of_gt h, hnamed]

/-! ### One shift, device by device (R211, R215) -/

@[simp] theorem Device.shiftIn_regs (d : Device) (din : TriBit) : (d.shiftIn din).regs = d.regs := rfl

theorem Device.shiftIn_sr_length {d : Device} (h : d.sr.length = 16) (din : TriBit) : (d.shiftIn din).sr.length = 16 := by
  simp [Device.shiftIn, h]

/-- Each bit but the last comes from the next place (R215). -/
theorem Device.shiftIn_sr_getElem?_of_lt {d : Device} (h : d.sr.length = 16) (din : TriBit) {i : Nat} (hi : i < 15) :
    (d.shiftIn din).sr[i]? = d.sr[i + 1]? := by
  rw [Device.shiftIn, List.getElem?_append_left (by rw [List.length_tail]; omega), List.getElem?_tail]

/-- The input bit takes the last place (R215). -/
theorem Device.shiftIn_sr_getElem?_last {d : Device} (h : d.sr.length = 16) (din : TriBit) :
    (d.shiftIn din).sr[15]? = some din := by
  have htail : d.sr.tail.length = 15 := by rw [List.length_tail, h]
  rw [Device.shiftIn, ← htail, List.getElem?_concat_length]

/-- A device's output bit stands first in its shift register (R211). -/
theorem Device.sr_getElem?_zero {d : Device} (h : d.sr.length = 16) : d.sr[0]? = some d.dout := by
  rw [Device.sr_eq_dout_cons fun he => by simp [he] at h, List.getElem?_cons_zero]

/-- `DIN_k` (R211): the DATA line for device 0, and the output of the device before it for every other. -/
def serialIn (din : TriBit) (ds : List Device) : Nat → TriBit
  | 0 => din
  | k + 1 => ds[k]?.bind Device.dout

/-- All devices shift at once, each taking its own input (R215). -/
theorem shiftDevices_getElem? (din : TriBit) (ds : List Device) (k : Nat) :
    (shiftDevices din ds)[k]? = ds[k]?.map fun d => d.shiftIn (serialIn din ds k) := by
  induction ds generalizing din k with
  | nil => rfl
  | cons d ds ih =>
    cases k with
    | zero => rfl
    | succ k =>
      have hin : serialIn d.dout ds k = serialIn din (d :: ds) (k + 1) := by cases k <;> rfl
      rw [shiftDevices, List.getElem?_cons_succ, ih, hin, List.getElem?_cons_succ]

/-- The input of a device in the chain, as the bit it holds after the shift (R211). -/
theorem some_serialIn {din : TriBit} {ds : List Device} (h : ∀ d ∈ ds, d.sr.length = 16) {k : Nat} (hk : k < ds.length) :
    some (serialIn din ds k) = if k = 0 then some din else ds[k - 1]?.bind fun p => p.sr[0]? := by
  cases k with
  | zero => rfl
  | succ k =>
    have hk' : k < ds.length := Nat.lt_of_succ_lt hk
    simp [serialIn, List.getElem?_eq_getElem hk', Device.sr_getElem?_zero (h _ (List.getElem_mem hk'))]

/-! ### The statements -/

/-- Settles O42, by the kind of the address: the no-op's, a row's (`DevRegs.write_rowAddr`), a named register's
(`DevRegs.write_named`) or none of these (`DevRegs.write_undefined`). -/
theorem registerWriteByAddress : Obligations.RegisterWriteByAddress := by
  intro cfg a d r hcfg
  obtain ⟨hdecode, hintensity, hscanLimit, hshutdown, htest⟩ := DevRegs.write_named hcfg d r
  refine ⟨?nop, ?row, ?_, ?_, ?_, ?_, ?_, ?undefined⟩
  case nop =>
    rintro rfl
    exact DevRegs.write_nopAddr cfg d r
  case row =>
    intro k hk
    rw [eq_rowAddr_of_toNat k.isLt hk]
    exact DevRegs.write_rowAddr cfg k.isLt d r
  case undefined => exact fun h hnamed => DevRegs.write_undefined h hnamed d r
  all_goals
    rintro rfl
    assumption

/-- Settles O43: at the edge every device takes its own input (`shiftDevices_getElem?`), and a shift moves the bits of one register
by one place (`Device.shiftIn_sr_getElem?_of_lt`, `Device.shiftIn_sr_getElem?_last`). -/
theorem clockEdgeShiftsEveryDevice : Obligations.ClockEdgeShiftsEveryDevice := by
  rintro cfg o c ⟨-, hsr⟩ hoe hclk
  have hdata : (o.perform ⟨.clk, true⟩).line .data = some o.data := if_pos hoe
  have hload : (o.perform ⟨.clk, true⟩).line .load = some o.load := if_pos hoe
  refine ⟨_, Chain.observe_clkRise hoe hclk, ?length, ?count, fun k hk => ?device⟩
  case length => exact shiftDevices_length _ _
  case count => simp only [Chain.clkRise, hload, Option.some.injEq]
  case device =>
    have hd : c.devices[k]? = some c.devices[k] := List.getElem?_eq_getElem hk
    have h16 : c.devices[k].sr.length = 16 := hsr _ (List.getElem_mem hk)
    have hd' : (c.clkRise (o.perform ⟨.clk, true⟩)).devices[k]? =
        some (c.devices[k].shiftIn (serialIn (some o.data) c.devices k)) := by
      rw [Chain.clkRise, hdata, shiftDevices_getElem?, hd, Option.map_some]
    refine ⟨_, _, hd, hd', Device.shiftIn_regs _ _, Device.shiftIn_sr_length h16 _,
      fun i hi => Device.shiftIn_sr_getElem?_of_lt h16 _ hi, ?_⟩
    rw [Device.shiftIn_sr_getElem?_last h16, some_serialIn hsr hk]

/-- Settles O44: what LOAD falling and rising do to the chain (`Chain.observe_loadFall`, `Chain.observe_loadRise`), the latter by
the number of edges counted. -/
theorem loadEdgesCommit : Obligations.LoadEdgesCommit := by
  intro cfg o c hoe
  refine ⟨Chain.observe_loadFall hoe, fun hload hec => ?committed, fun hload hec => ?violated⟩
  case committed =>
    rw [Chain.observe_loadRise hoe hload, Chain.loadRise, if_pos hec]
    congr 2
    funext d
    unfold Device.commit
    cases srPair d.sr <;> rfl
  case violated =>
    rw [Chain.observe_loadRise hoe hload, Chain.loadRise, if_neg hec]
    rfl

/-- Settles O46: the chain of a step is what its line levels make of it (`step_chain`). -/
theorem undrivenLinesMakeEverythingUnknown : Obligations.UndrivenLinesMakeEverythingUnknown :=
  fun _ _ h hoe => (step_chain h).trans (Chain.observe_undriven hoe)

/-- Settles O47: the chain of a step is what its line levels make of it (`step_chain`), and these stay. -/
theorem noLevelChangeNoTransition : Obligations.NoLevelChangeNoTransition := by
  intro s t h hoe hout
  rw [step_chain h, hout, Chain.observe_same hoe]

/-- Settles O48: the pairs of the frame reach the devices in the reverse order of sending (`performAll_frameEvents_regs`). -/
theorem frameWritesEachDeviceItsSlot : Obligations.FrameWritesEachDeviceItsSlot := by
  intro cfg f o c hc hf hoe hload k hk
  have hregs := performAll_frameEvents_regs hc hf hoe hload
  obtain ⟨hn, -⟩ := hc
  have hslot : cfg.n - 1 - k < f.length := by omega
  have hd : c.devices[k]? = some (c.devices[k]'(by omega)) := List.getElem?_eq_getElem _
  have hp : f.reverse[k]? = some f[cfg.n - 1 - k] := by
    rw [List.getElem?_reverse (by omega), hf, List.getElem?_eq_getElem hslot]
  have hk' := congrArg (·[k]?) hregs
  simp only [List.getElem?_map, List.getElem?_zipWith, hp, hd] at hk'
  obtain ⟨d', hd', hwritten⟩ := Option.map_eq_some_iff.1 hk'
  exact ⟨_, _, d', List.getElem?_eq_getElem hslot, hd, hd', hwritten⟩

end Sys2Proof.Machine
end

section
/-! SUPPORT. The two causes for which CMD turns a word away whatever command it holds, busy and not configured; and the statements
they settle (60_exceptions.md R242, R243). -/

namespace Sys2Proof.Machine

/-! ### Words turned away (R97) -/

theorem isInit_of_ne_init {i : Instr} (h : i ≠ .init) : isInit i = false := by
  cases i with
  | init => contradiction
  | setb | clear | drowd | drowdAll | wreg | wregAll => rfl

/-- A command other than INIT, written while idle and not configured, is discarded with NCFG, whatever its work (R97, R242). -/
theorem State.acceptWork_unconfigured {s : State} (hq : s.q = []) (hoe : s.out.oe = false) (w : Work) :
    s.acceptWork false w = s.discardWith .ncfg := by
  rcases s.acceptWork_cases false w with ⟨hn, -⟩ | ⟨-, -, -, h⟩ | ⟨-, hc, -⟩ | ⟨-, hc, -⟩
  · exact absurd hq hn
  · exact h
  all_goals simp [hoe] at hc

/-- Any word written while busy, legal or not, is discarded with OVR (R97, R243). -/
theorem State.accept_busy {s : State} (hq : s.q ≠ []) (w : Word) : s.accept w = .next (s.discardWith .ovr) := by
  rcases s.accept_next w with ⟨i, -, h⟩ | ⟨-, h⟩
  · rw [h, State.acceptWork_busy hq]
  · rw [h, s.acceptIllegal_eq, State.busy_eq_true.2 hq, if_pos rfl]

/-! ### The statements -/

/-- Settles O9: the write only sets OVR (`State.accept_busy`), which nothing else that passes in the cycle reads or writes
(`State.passCycle_with_flags`). -/
theorem busyWriteSetsOvrAlone : Obligations.BusyWriteSetsOvrAlone := by
  intro s w rest hr hh hq
  have hwrite : step s = .next ((s.passCycle (s.discardWith .ovr)).takeInputs rest) := by
    rw [step_of_cmdWrite hr (State.hostAccess_cmd hh) (State.accept_busy hq w), hh, List.tail_cons]
  have hpass : s.passCycle (s.discardWith .ovr) = { s.passCycle s with flags := s.flags.set .ovr } :=
    s.passCycle_with_flags s _
  refine ⟨_, _, hwrite, step_idle hr rest, ?_⟩
  rw [hpass, State.takeInputs_flags, State.passCycle_flags]
  rfl

/-- Settles O28: every command is acceptance of its work (`exec_eq`), which is turned away while busy (`State.acceptWork_busy`) and,
for any command but INIT, while not configured (`State.acceptWork_unconfigured`). -/
theorem commandsTurnedAwaySetOneFlag : Obligations.CommandsTurnedAwaySetOneFlag := by
  refine fun i s => ⟨fun hq => ?busy, fun hq hoe hi => ?unconfigured⟩
  case busy =>
    rw [exec_eq, State.acceptWork_busy hq]
    rfl
  case unconfigured =>
    rw [exec_eq, isInit_of_ne_init hi, State.acceptWork_unconfigured hq hoe]
    rfl

end Sys2Proof.Machine
end

section
/-! SUPPORT. A cycle with reset asserted, and a STATUS read in the cycle after a command; and the statements they settle
(70_reset_and_hazards.md R270 to R272, R275; 20_memory.md R66). -/

namespace Sys2Proof.Machine

/-! ### The cycle of a reset (R66, R270) -/

/-- With reset asserted a step answers the reset values, whatever the host does (R270). -/
theorem step_of_reset {s : State} (hr : s.rstAsserted = true) :
    step s = .next (s.hostInReset.resetCycle.takeInputs s.host.tail) :=
  if_pos hr

/-- In a reset cycle a read that touches the window returns 0, whatever its width (R66; log 12). -/
theorem State.hostInReset_of_read {s : State} {addr n : Nat} (h : s.hostAccess = some (.read addr n))
    (hhit : windowHit s.cfg.base addr n ≠ .outside) : s.hostInReset = s.returnRead addr 0 := by
  simp [State.hostInReset, h, Access.windowRead, hhit]

/-- In a reset cycle an access that is no read has no effect at all (R66). -/
theorem State.hostInReset_of_no_read {s : State} (h : ∀ addr n, s.hostAccess ≠ some (.read addr n)) : s.hostInReset = s := by
  cases hacc : s.hostAccess with
  | none => simp [State.hostInReset, hacc]
  | some acc =>
    cases acc with
    | read addr n => exact absurd hacc (h addr n)
    | write addr bytes => simp [State.hostInReset, hacc, Access.windowRead]

/-! ### A command, and a read of STATUS (R63, R97, R275) -/

/-- A command written to an idle machine leaves its queue whole for the next cycle: the sequencer does not step in the cycle of
the write (R63, R128). -/
theorem step_command_of_idle {s a : State} {i : Instr} {rest : List HostOp} (hwf : i.wellFormed = true) (hq : s.q = [])
    (hr : s.rstAsserted = false) (hh : s.host = .cmd (encode i) :: rest) (ha : exec i s = .next a) :
    ∃ u, step s = .next u ∧ u.q = a.q ∧ u.host = rest ∧ u.reads = a.reads ∧ u.cycle = s.cycle + 1 := by
  have haccept : s.accept (encode i) = .next a := by simp [State.accept, decode_encode hwf, ha]
  obtain ⟨-, hqueue, -, -⟩ := s.passCycle_idle a (State.busy_eq_false.2 hq)
  exact ⟨_, step_of_cmdWrite hr (State.hostAccess_cmd hh) haccept, hqueue, by simp [hh], by simp, rfl⟩

/-- A STATUS read returns the STATUS of S(n), whatever event is performed in its cycle (R63, R65). -/
theorem step_rdStatus {s : State} {rest : List HostOp} (hr : s.rstAsserted = false) (hh : s.host = .rdStatus :: rest) :
    ∃ t, step s = .next t ∧ t.reads = s.reads ++ [⟨s.cycle, s.cfg.base + 0x4, s.statusWord⟩] := by
  have ha : s.hostCycle = .next (s.returnRead (s.cfg.base + 0x4) s.statusWord) :=
    (State.hostCycle_of_access (State.hostAccess_of_host hh)).trans (s.access_read .status)
  exact ⟨_, step_of_hostCycle hr hh (by simp) ha, by simp⟩

/-! ### The statements -/

/-- Settles O11: the step is `step_of_reset`; its access can only log a read (`State.hostInReset_eq`), and the released lines make
the chain unknown (`Chain.observe_undriven`). -/
theorem resetCycleGivesResetValues : Obligations.ResetCycleGivesResetValues := by
  intro s hr
  have hstep := step_of_reset hr
  have hchain : (s.hostInReset.resetCycle.takeInputs s.host.tail).chain = Chain.unknown s.cfg.n :=
    (step_chain hstep).trans (Chain.observe_undriven (.inr rfl))
  have hcycle : s.hostInReset.cycle = s.cycle := by
    obtain ⟨rs, e⟩ := s.hostInReset_eq
    rw [e]
  refine ⟨_, hstep, rfl, rfl, rfl, Flags.get_zero, step_reset_trace hstep hr, step_cfg hstep, hchain,
    congrArg (· + 1) hcycle, rfl, step_rst hstep, fun addr n hacc hhi hlo => ?read, fun hno => ?noRead⟩
  case read => simp [State.hostInReset_of_read hacc (windowHit_ne_outside hhi hlo)]
  case noRead => simp [State.hostInReset_of_no_read hno]

/-- Settles O38: the read of the next cycle returns that cycle's STATUS (`step_rdStatus`), whose bit 0 tells whether the queue that
the command left (`step_command_of_idle`) is empty. -/
theorem noStaleBusyWindow : Obligations.NoStaleBusyWindow := by
  intro i s hwf hq hrst hhost
  have ha := exec_eq i s
  obtain ⟨-, -, -, -, -, -, -, hreads⟩ := s.acceptWork_frame (isInit i) (workOf s.cfg i)
  have hr : s.rstAsserted = false := by simp [State.rstAsserted, hrst]
  obtain ⟨u, hcommand, huq, huhost, hureads, hucycle⟩ := step_command_of_idle hwf hq hr hhost ha
  have hur : u.rstAsserted = false := by simp [State.rstAsserted, step_rst hcommand, hrst]
  obtain ⟨t, hread, htreads⟩ := step_rdStatus hur huhost
  refine ⟨_, t, u.statusWord, ha, ?run, ?logged, ?busy⟩
  case run => rw [runFor_succ_of_step hcommand, runFor_succ_of_step hread]; rfl
  case logged => rw [htreads, hureads, hreads, hucycle, step_cfg hcommand]
  case busy => rw [State.getLsbD_statusWord_zero, State.busy, huq]

end Sys2Proof.Machine
end

section
/-! SUPPORT. The words of V-ENC-1 (95_test_vectors.md section 2.1), and the statement they settle. -/

namespace Sys2Proof.Machine

/-- Settles O5: a word that V-ENC-1 lists as legal is the word of its command (`decode_eq_ok_iff`), and one that it lists as illegal
has RSV, a field that its opcode does not use, or a reserved opcode against it (`decode_of_not_legal`). -/
theorem wordsOfTheSpecDecode : Obligations.WordsOfTheSpecDecode := by
  refine ⟨?init, ?setb, ?clear, ?drowd, ?drowdAll, ?wreg, ?wregAll,
    ?devOnBroadcast, ?rsvBit, ?bitAboveLevel, ?reservedOpcode⟩
  case init | setb | clear | drowd | drowdAll | wreg | wregAll => exact decode_eq_ok_iff.2 ⟨rfl, rfl⟩
  case devOnBroadcast | rsvBit | bitAboveLevel | reservedOpcode => exact decode_of_not_legal rfl

end Sys2Proof.Machine
end
